-- ==== Sys2Proof/Word.lean ====
section
/-! DEFINITION. The word types of the machine: data bytes, bus addresses, phase words and event
codes, at the widths 00_scope.md R7 and 30_encoding.md R63 give. -/

namespace Sys2Proof

/-- A data value: one byte (R7). -/
abbrev Byte := BitVec 8

/-- A bus address, a vector or a jump target: 16 bits (R7). -/
abbrev Addr := BitVec 16

/-- A phase word, format `PW9` (R63, R64). -/
abbrev PhaseWord := BitVec 9

/-- An event code, format `EV3` (R63, R67). -/
abbrev EventCode := BitVec 3

end Sys2Proof
end

