-- ==== Sys2Proof/Syntax.lean ====
section
/-! DEFINITION. The operations of the block as syntax: one constructor of `Instr` per row of
spec/opcode_table.json, and what the rows' operands are made of (program operations, draws, bus
accesses, script lines). -/

namespace Sys2Proof

/-- One operation of a program step: the `OP`s of 30_encoding.md R78, and the polls of the SerialIO
waits that program code performs (40_serialio.md R82 to R84, R87). 10_state.md R16 bounds what a
program step may touch; nothing here names SSEL, the frames, the phase word, `sector_ptr`,
`brk_unimpl` or `fault`. -/
inductive ProgOp where
  /-- `A=v` -/
  | setA (v : Byte)
  /-- `X=v` -/
  | setX (v : Byte)
  /-- `Y=v` -/
  | setY (v : Byte)
  /-- `P=v` -/
  | setP (v : Byte)
  /-- `SP=v`, taken modulo 2^SP_W (log 14) -/
  | setSP (v : Nat)
  /-- `PC=v` -/
  | setPC (v : Addr)
  /-- `bankwr v`: BankSwitch `write(v)` (41_bankswitch.md R90) -/
  | bankWr (v : Byte)
  /-- `bankrd`: `A ← read()` (41_bankswitch.md R89) -/
  | bankRd
  /-- `cli`: imask ← 0 -/
  | cli
  /-- `sei`: imask ← 1 -/
  | sei
  /-- `rd a=v`: `MemRead(a, 1)`; `v` is the value the device, the window or the memory oracle
  supplies, which fixes a byte of plain memory not known yet (20_memory.md R60; log 8) -/
  | rd (a : Addr) (v : Byte)
  /-- `wr a v`: `MemWrite(a, 1, v)` -/
  | wr (a : Addr) (v : Byte)
  /-- the start of a SerialIO wait: with MAX_SPINS, `spins ← 0` (40_serialio.md R87; log 21) -/
  | beginWait
  /-- one poll of `receiveByte`'s wait, STATUS drawn as `v` (R84; log 21) -/
  | pollRx (v : Byte)
  /-- one poll of `transmitByte`'s wait, STATUS drawn as `v` (R83; log 21) -/
  | pollTx (v : Byte)
  deriving DecidableEq, Repr, Inhabited

/-- A sequence of program steps, as the action of `withBank0` is one (41_bankswitch.md R91): each
step some operations of R78, and `withBank0`s inside it. -/
inductive ProgSeq where
  /-- no step left -/
  | done
  /-- one program step, then the rest -/
  | step (ops : List ProgOp) (rest : ProgSeq)
  /-- `withBank0(action)`, then the rest -/
  | withBank0 (action : ProgSeq) (rest : ProgSeq)
  deriving DecidableEq, Repr, Inhabited

/-- The draws a `step` or `run` line supplies (R78): latch, status and data bytes in the order they
are used. -/
structure Draws where
  latch  : List Byte := []
  status : List Byte := []
  data   : List Byte := []
  deriving DecidableEq, Repr, Inhabited

/-- The draws of a reset (70_reset_and_hazards.md R154): the registers reset leaves unspecified. A
`reset` line may supply `sector=v` (R78); what the line does not supply is a free draw (log 13). -/
structure ResetDraws where
  a      : Option Byte := none
  x      : Option Byte := none
  y      : Option Byte := none
  p      : Option Byte := none
  sp     : Option Nat := none
  sector : Option (BitVec 16) := none
  deriving DecidableEq, Repr, Inhabited

/-- How often an event-5 line steps: `step` once; `run` until a stop of R78; `activation` until the
next RST_RTI or fault, for the pseudo-operation of R79 (log 20). -/
inductive StepMode where
  | once
  | run
  | activation
  deriving DecidableEq, Repr, Inhabited

/-- A bus access at some address: a read with the value the environment supplies where the address is
live or its byte is not known yet, or a write of a byte (20_memory.md R43, R44, R60). -/
inductive Access where
  | read (draw : Byte)
  | write (v : Byte)
  deriving DecidableEq, Repr, Inhabited

/-- The operations of the block, one constructor per row of spec/opcode_table.json. Operands are
the values the rule takes: draws of the step, bus accesses, program operations, and the bits the
row's mask leaves free. -/
inductive Instr where
  -- PW9: the phase word selects a micro-step (30_encoding.md R65)
  /-- IDLE, R16: the interrupted program runs; `ops` is its step -/
  | idle (ops : List ProgOp)
  /-- ENT_SAVE, R100 -/
  | entSave
  /-- ENT_BANK_READ, R101 -/
  | entBankRead
  /-- ENT_KSTACK_SWITCH, R102 -/
  | entKstackSwitch
  /-- ENT_BANK_FORCE, R103 -/
  | entBankForce
  /-- DSP_BRK_CHECK, R105 -/
  | dspBrkCheck
  /-- DSP_LATCH_READ, R106, with the latch byte drawn -/
  | dspLatchRead (latch : Byte)
  /-- DSP_TABLE_LO, R108 -/
  | dspTableLo
  /-- DSP_TABLE_HI, R109 -/
  | dspTableHi
  /-- DSP_JUMP, R111 -/
  | dspJump
  /-- HANDLER(1,0), R115 -/
  | handler10Fdc0Drq
  /-- HANDLER(2,0), R116 -/
  | handler20Fdc1Drq
  /-- HANDLER(3,0), R117 -/
  | handler30Fdc0Irq
  /-- HANDLER(4,0), R118 -/
  | handler40Fdc1Irq
  /-- HANDLER(5,0), R119, with the STATUS byte drawn -/
  | handler50Ser0RxPoll (status : Byte)
  /-- HANDLER(5,1), R120, with the DATA byte drawn -/
  | handler51Ser0RxRead (data : Byte)
  /-- HANDLER(5,2), R121, with the STATUS byte drawn -/
  | handler52Ser0TxPoll (status : Byte)
  /-- HANDLER(5,3), R122 -/
  | handler53Ser0TxWrite
  /-- HANDLER(6,0), R123 -/
  | handler60Ser1
  /-- RST_BANK_WRITE, R126 -/
  | rstBankWrite
  /-- RST_KSTACK_RESTORE, R127 -/
  | rstKstackRestore
  /-- RST_POP, R128 -/
  | rstPop
  /-- RST_RTI, R129 -/
  | rstRti
  /-- FAULT(1), R131, R132 -/
  | faultUnmappedSource
  /-- FAULT(2), R131, R133 -/
  | faultStackOverflow
  /-- FAULT(3), R131, R134 -/
  | faultBankUnwritten
  /-- FAULT(4), R131, R135 -/
  | faultSpinLimit
  -- EV3: the event that drives a step (30_encoding.md R67)
  /-- event 0, R16 -/
  | evProg (ops : List ProgOp)
  /-- event 1, R154 -/
  | evReset (d : ResetDraws)
  /-- event 2, R98 -/
  | evIrq
  /-- event 3, R99 -/
  | evSwi
  /-- event 4, R137 -/
  | evNmi
  /-- event 5, R35, R66 -/
  | evStep (mode : StepMode) (d : Draws)
  -- LATCH8: the byte DSP_LATCH_READ read (30_encoding.md R68, R69)
  | latch02Fdc0Drq
  | latch04Fdc1Drq
  | latch06Fdc0Irq
  | latch08Fdc1Irq
  | latch0ASer0Irq
  | latch0CSer1Irq
  | latchReservedGuard
  /-- mask 0x01: bits [7:1] free -/
  | latchReservedOdd (hi : BitVec 7)
  | latchReserved0E
  /-- mask 0xF1: bits [3:1] free -/
  | latchReserved10To1E (n : BitVec 3)
  /-- mask 0xE1: bits [4:1] free -/
  | latchReserved20To3E (n : BitVec 4)
  /-- mask 0xC1: bits [5:1] free -/
  | latchReserved40To7E (n : BitVec 5)
  /-- mask 0x81: bits [6:1] free -/
  | latchReserved80ToFE (n : BitVec 6)
  -- ADDR16: one bus access (30_encoding.md R70)
  | addrBank0Read
  | addrBank0Write (page : Byte)
  | addrIntLatch (acc : Access)
  /-- `hi`: bit 0 of the address, 0 = low byte (the table's `byte` field) -/
  | addrVecNmi (hi : Bool)
  | addrVecReset (hi : Bool)
  | addrVecIrq (hi : Bool)
  | addrJtSlot0 (hi : Bool)
  | addrJtSlot1 (hi : Bool)
  | addrJtSlot2 (hi : Bool)
  | addrJtSlot3 (hi : Bool)
  | addrJtSlot4 (hi : Bool)
  | addrJtSlot5 (hi : Bool)
  | addrJtSlot6 (hi : Bool)
  | addrUartDataRead (draw : Byte)
  | addrUartDataWrite (b : Byte)
  | addrUartStatus (acc : Access)
  | addrUartCmd (acc : Access)
  | addrUartCtrl (acc : Access)
  | addrWindow (a : Addr) (acc : Access)
  -- PSEUDO: fixed sequences with a name (30_encoding.md R79)
  | pseudoWithBank0 (action : ProgSeq)
  | pseudoActivation (d : Draws)
  | pseudoCli
  | pseudoSei
  deriving DecidableEq, Repr

/-- What a script line carries beside its event code or name (R78: "its `EV3` code plus the draws it
supplies"): program operations, step draws, how often to step, reset draws, and the action of a
`withBank0`. A line's event uses the parts its rule names. -/
structure Payload where
  ops    : List ProgOp := []
  draws  : Draws := {}
  mode   : StepMode := .once
  regs   : ResetDraws := {}
  action : ProgSeq := .done
  deriving DecidableEq, Repr, Inhabited

/-- The names of 30_encoding.md R79 that the opcode table lists. -/
inductive PseudoName where
  | withBank0
  | activation
  | cli
  | sei
  deriving DecidableEq, Repr, Inhabited

/-- One line of the environment's script (R78): an event code, or the name of a pseudo-operation,
with its payload. -/
inductive Line where
  | event (code : EventCode) (p : Payload)
  | pseudo (name : PseudoName) (p : Payload)
  deriving DecidableEq, Repr, Inhabited

/-- The values presented to one micro-step: the program's operations at IDLE, the draws elsewhere. -/
structure StepVals where
  ops    : List ProgOp := []
  latch  : Byte := 0
  status : Byte := 0
  data   : Byte := 0
  deriving DecidableEq, Repr, Inhabited

/-- An encoded operation, by format (R63): a phase word with the values presented to the step, a
script line, a latch byte, or a bus access at an address. -/
inductive Code where
  | phase (w : PhaseWord) (v : StepVals)
  | line (l : Line)
  | latch (v : Byte)
  | bus (a : Addr) (acc : Access)
  deriving DecidableEq, Repr

end Sys2Proof
end

