-- ==== Sys2Proof/Config.lean ====
section
/-! DEFINITION. The configuration record of 00_scope.md R9, two named configurations, and the free
values: opaque constants with no body, so that nothing in Lean can prove what they are. -/

namespace Sys2Proof

/-- The two boot modes (70_reset_and_hazards.md R157, R158). -/
inductive BootMode where
  | polledEcho
  | irqDriven
  deriving DecidableEq, Repr

/-- A 16-bit little-endian image entry: the byte at the lower address, then the byte above it
(20_memory.md R41, R48, R49). -/
structure Entry where
  lo : Byte
  hi : Byte
  deriving DecidableEq, Repr

/-- The image bytes at $FFFA to $FFFF, in address order (30_encoding.md R73). -/
structure VectorImage where
  nmi   : Entry
  reset : Entry
  irq   : Entry
  deriving DecidableEq, Repr

/-- The image bytes at TABLE_BASE to TABLE_BASE+13; slot 0 is the guard, whose bytes are unspecified
(30_encoding.md R74). -/
structure TableImage where
  slot0 : Entry
  slot1 : Entry
  slot2 : Entry
  slot3 : Entry
  slot4 : Entry
  slot5 : Entry
  slot6 : Entry
  deriving DecidableEq, Repr

/-- The configuration record `Cfg` of R9, with the image bytes that R10 (a) and (e) check. -/
structure Cfg where
  kstack        : Bool
  sector        : Bool
  bootMode      : BootMode
  nestEnable    : Bool
  maxDepth      : Nat
  tableBase     : Addr
  jt1           : Addr
  jt2           : Addr
  jt3           : Addr
  jt4           : Addr
  jt5           : Addr
  jt6           : Addr
  dispatchEntry : Addr
  resetEntry    : Addr
  nmiEntry      : Addr
  restoreEntry  : Addr
  winLo         : Addr
  winHi         : Addr
  nBanks        : Nat
  bankReset     : Option Byte
  brkMask       : Byte
  uartBase      : Addr
  cmdPolled     : Byte
  cmdIrq        : Byte
  kstackTop     : Nat
  spW           : Nat
  zfBase        : Addr
  zfLen         : Nat
  maxSpins      : Option Nat
  vec           : VectorImage
  table         : TableImage
  deriving DecidableEq, Repr

namespace Config

/-- Configuration C0 of 95_test_vectors.md, the spec's own test setting, with the image bytes it
requires. -/
def c0 : Cfg where
  kstack := false
  sector := true
  bootMode := .irqDriven
  nestEnable := true
  maxDepth := 4
  tableBase := 0xE000
  jt1 := 0xE010
  jt2 := 0xE020
  jt3 := 0xE030
  jt4 := 0xE040
  jt5 := 0xE050
  jt6 := 0xE060
  dispatchEntry := 0xE100
  resetEntry := 0xE200
  nmiEntry := 0xE300
  restoreEntry := 0xE180
  winLo := 0x0000
  winHi := 0x7FFF
  nBanks := 4
  bankReset := none
  brkMask := 0x10
  uartBase := 0xD000
  cmdPolled := 0x0B
  cmdIrq := 0x09
  kstackTop := 0xFF
  spW := 8
  zfBase := 0x0200
  zfLen := 16
  maxSpins := none
  vec := { nmi := ⟨0x00, 0xE3⟩, reset := ⟨0x00, 0xE2⟩, irq := ⟨0x00, 0xE1⟩ }
  table := { slot0 := ⟨0x00, 0x00⟩, slot1 := ⟨0x10, 0xE0⟩, slot2 := ⟨0x20, 0xE0⟩,
             slot3 := ⟨0x30, 0xE0⟩, slot4 := ⟨0x40, 0xE0⟩, slot5 := ⟨0x50, 0xE0⟩,
             slot6 := ⟨0x60, 0xE0⟩ }

/-- Configuration C1 of 95_test_vectors.md: C0 with `KSTACK=1 SECTOR=0`. -/
def c1 : Cfg := { c0 with kstack := true, sector := false }

/-- The configuration of `State.reset`: C0 with `KSTACK=1`, so that every row of the opcode table
can be reached (DESIGN CHOICE, unsafe: log 1; R9 leaves these fields OPEN). Statements about the
machine quantify over the configuration in State instead. -/
def atReset : Cfg := { c0 with kstack := true }

/-- A byte nothing constrains, for one use (`slot`) in one step (`n`, the count of lines taken). -/
opaque freeByte (n slot : Nat) : Byte

/-- A number nothing constrains. -/
opaque freeNat (n slot : Nat) : Nat

/-- A bit nothing constrains. -/
opaque freeBit (n slot : Nat) : Bool

/-- The environment's `n`-th line once its script is used up: any event with any operands
(10_state.md R35, 60_exceptions.md R141). -/
opaque freeLine (n : Nat) : Line

end Config

end Sys2Proof
end

