-- ==== Sys2Proof/Machine/AddressMap.lean ====
section
/-! DEFINITION. The address map: byte order of image entries, the fixed registers, what an address
selects (30_encoding.md R70), and the admission checks of a configuration (00_scope.md R10). -/

namespace Sys2Proof.Machine

/-- `{hi, lo}`: `hi` in the upper bits (00_scope.md R11). -/
def word16 (hi lo : Byte) : Addr := hi ++ lo

/-- Bits [7:0] of an address. -/
def lowByte (a : Addr) : Byte := a.extractLsb' 0 8

/-- Bits [15:8] of an address. -/
def highByte (a : Addr) : Byte := a.extractLsb' 8 8

/-- The value a little-endian entry spells (20_memory.md R41, R49). -/
def entryValue (e : Entry) : Addr := word16 e.hi e.lo

/-- $F000, the bank selector BANK0 (20_memory.md R46). -/
def bank0Addr : Addr := 0xF000

/-- $F0FF, the interrupt source latch INT_LATCH (20_memory.md R47). -/
def latchAddr : Addr := 0xF0FF

/-- $FFFA, the NMI vector and the start of the vector table (20_memory.md R41). -/
def nmiVector : Addr := 0xFFFA

/-- $FFFC, the reset vector (20_memory.md R41). -/
def resetVector : Addr := 0xFFFC

/-- $FFFE, the IRQ vector (20_memory.md R41). -/
def irqVector : Addr := 0xFFFE

/-- `a` lies in $FFFA to $FFFF. -/
def inVectors (a : Addr) : Bool := decide (nmiVector ≤ a)

/-- The byte offset of `a` from the start of the jump table, modulo 2^16. -/
def tableOffset (cfg : Cfg) (a : Addr) : Nat := (a - cfg.tableBase).toNat

/-- `a` lies in [TABLE_BASE, TABLE_BASE+13] (mod 2^16) (R70). -/
def inTable (cfg : Cfg) (a : Addr) : Bool := decide (tableOffset cfg a < 14)

/-- The register number of `a` in the UART block, modulo 2^16. -/
def uartOffset (cfg : Cfg) (a : Addr) : Nat := (a - cfg.uartBase).toNat

/-- `a` lies in UART_BASE+0..3 (R70). -/
def inUart (cfg : Cfg) (a : Addr) : Bool := decide (uartOffset cfg a < 4)

/-- `a` lies in [WIN_LO, WIN_HI] (R70). -/
def inWindow (cfg : Cfg) (a : Addr) : Bool := decide (cfg.winLo ≤ a) && decide (a ≤ cfg.winHi)

/-- What a bus address selects. -/
inductive Target where
  | bank0
  | intLatch
  | vector
  | table
  | uart
  | window
  | memory
  deriving DecidableEq, Repr

/-- Bus address decode, in the order of test that 30_encoding.md R70 gives. -/
def addrTarget (cfg : Cfg) (a : Addr) : Target :=
  if a = bank0Addr then .bank0
  else if a = latchAddr then .intLatch
  else if inVectors a then .vector
  else if inTable cfg a then .table
  else if inUart cfg a then .uart
  else if inWindow cfg a then .window
  else .memory

/-- UART_BASE+0, DATA (20_memory.md R50). -/
def uartData (cfg : Cfg) : Addr := cfg.uartBase

/-- UART_BASE+1, STATUS (20_memory.md R50). -/
def uartStatus (cfg : Cfg) : Addr := cfg.uartBase + 1

/-- UART_BASE+2, CMD (20_memory.md R50). -/
def uartCmd (cfg : Cfg) : Addr := cfg.uartBase + 2

/-- UART_BASE+3, CTRL (20_memory.md R50). -/
def uartCtrl (cfg : Cfg) : Addr := cfg.uartBase + 3

/-- The image bytes of the vector table in address order (30_encoding.md R73). -/
def vectorBytes (cfg : Cfg) : List Byte :=
  [cfg.vec.nmi.lo, cfg.vec.nmi.hi, cfg.vec.reset.lo, cfg.vec.reset.hi,
   cfg.vec.irq.lo, cfg.vec.irq.hi]

/-- The image byte at an address of the vector table. -/
def vectorByte (cfg : Cfg) (a : Addr) : Byte :=
  (vectorBytes cfg).getD (a - nmiVector).toNat 0

/-- The image bytes of the jump table in address order (30_encoding.md R74). -/
def tableBytes (cfg : Cfg) : List Byte :=
  [cfg.table.slot0.lo, cfg.table.slot0.hi, cfg.table.slot1.lo, cfg.table.slot1.hi,
   cfg.table.slot2.lo, cfg.table.slot2.hi, cfg.table.slot3.lo, cfg.table.slot3.hi,
   cfg.table.slot4.lo, cfg.table.slot4.hi, cfg.table.slot5.lo, cfg.table.slot5.hi,
   cfg.table.slot6.lo, cfg.table.slot6.hi]

/-- The image byte at an address of the jump table. -/
def tableByte (cfg : Cfg) (a : Addr) : Byte :=
  (tableBytes cfg).getD (tableOffset cfg a) 0

/-- `JT[k]` of R9, for k = 1..6 (00_scope.md R9). -/
def jumpEntry (cfg : Cfg) (k : Nat) : Option Addr :=
  match k with
  | 1 => some cfg.jt1
  | 2 => some cfg.jt2
  | 3 => some cfg.jt3
  | 4 => some cfg.jt4
  | 5 => some cfg.jt5
  | 6 => some cfg.jt6
  | _ => none

/-- The four UART addresses. -/
def uartAddrs (cfg : Cfg) : List Addr := [uartData cfg, uartStatus cfg, uartCmd cfg, uartCtrl cfg]

/-- $F000, $F0FF and $FFFA to $FFFF. -/
def fixedAddrs : List Addr :=
  [bank0Addr, latchAddr, 0xFFFA, 0xFFFB, 0xFFFC, 0xFFFD, 0xFFFE, 0xFFFF]

/-- R10 (a): the image's vectors spell the three entries. -/
def vectorsSpell (cfg : Cfg) : Bool :=
  decide (entryValue cfg.vec.nmi = cfg.nmiEntry) &&
  decide (entryValue cfg.vec.reset = cfg.resetEntry) &&
  decide (entryValue cfg.vec.irq = cfg.dispatchEntry)

/-- R10 (e), 30_encoding.md R74: the image's jump table holds `JT[1]` to `JT[6]`. -/
def tableSpells (cfg : Cfg) : Bool :=
  decide (entryValue cfg.table.slot1 = cfg.jt1) && decide (entryValue cfg.table.slot2 = cfg.jt2) &&
  decide (entryValue cfg.table.slot3 = cfg.jt3) && decide (entryValue cfg.table.slot4 = cfg.jt4) &&
  decide (entryValue cfg.table.slot5 = cfg.jt5) && decide (entryValue cfg.table.slot6 = cfg.jt6)

/-- R10 (b): the window contains no fixed register, vector byte or UART register. -/
def windowClear (cfg : Cfg) : Bool :=
  (fixedAddrs ++ uartAddrs cfg).all fun a => !inWindow cfg a

/-- R10 (f): the jump table, the UART block and the fixed addresses are apart. -/
def blocksApart (cfg : Cfg) : Bool :=
  ((fixedAddrs ++ uartAddrs cfg).all fun a => !inTable cfg a) &&
  (uartAddrs cfg).all fun a => !fixedAddrs.contains a

/-- R10 (d): `MAX_DEPTH` ≥ 1, and `BRK_MASK` has exactly one bit set. -/
def depthAndMask (cfg : Cfg) : Bool :=
  decide (1 ≤ cfg.maxDepth) &&
  [0x01, 0x02, 0x04, 0x08, 0x10, 0x20, 0x40, 0x80].contains cfg.brkMask

/-- The types R9 gives two Nat fields: `N_BANKS` in 1..256, `KSTACK_TOP` an SP_W-bit value. -/
def fieldsTyped (cfg : Cfg) : Bool :=
  decide (1 ≤ cfg.nBanks) && decide (cfg.nBanks ≤ 256) && decide (cfg.kstackTop < 2 ^ cfg.spW)

/-- Configuration well-formedness, 00_scope.md R10. Item (c) has nothing to compare: `JT[k]` is by
definition the entry of handler k (log 24). -/
def admitted (cfg : Cfg) : Bool :=
  vectorsSpell cfg && windowClear cfg && depthAndMask cfg && tableSpells cfg && blocksApart cfg &&
  fieldsTyped cfg

/-- The jump-table address of slot k's low or high byte (20_memory.md R48). -/
def slotAddr (cfg : Cfg) (k : Nat) (hi : Bool) : Addr :=
  cfg.tableBase + BitVec.ofNat 16 (2 * k + hi.toNat)

/-- The address of a vector's low or high byte (20_memory.md R41). -/
def vectorAddr (base : Addr) (hi : Bool) : Addr := base + BitVec.ofNat 16 hi.toNat

end Sys2Proof.Machine
end

