-- ==== Sys2Proof/WellFormed.lean ====
section
/-! DEFINITION. Which operations are well formed under a configuration: what the types of `Instr` do
not already say. -/

namespace Sys2Proof

/-- A program operation is well formed: an SP value fits SP_W bits, and no write aims at the image
(20_memory.md R44). -/
def ProgOp.wf (cfg : Cfg) : ProgOp → Bool
  | .setSP v => decide (v < 2 ^ cfg.spW)
  | .wr a _ =>
    decide (Machine.addrTarget cfg a ≠ .vector) && decide (Machine.addrTarget cfg a ≠ .table)
  | _ => true

/-- The operations of one program step are well formed. -/
def opsWf (cfg : Cfg) (ops : List ProgOp) : Bool := ops.all (ProgOp.wf cfg)

/-- Every step of a sequence of program steps is well formed. -/
def ProgSeq.wf (cfg : Cfg) : ProgSeq → Bool
  | .done => true
  | .step ops rest => opsWf cfg ops && ProgSeq.wf cfg rest
  | .withBank0 action rest => ProgSeq.wf cfg action && ProgSeq.wf cfg rest

/-- A `step` line supplies at most one value of each draw (30_encoding.md R78). -/
def drawsWf (mode : StepMode) (d : Draws) : Bool :=
  match mode with
  | .once =>
    decide (d.latch.length ≤ 1) && decide (d.status.length ≤ 1) && decide (d.data.length ≤ 1)
  | .run => decide (d.latch.length ≤ 1) && decide (d.data.length ≤ 1)
  | .activation => decide (d.latch.length ≤ 1) && decide (d.data.length ≤ 1)

/-- An operation is well formed under a configuration: the kernel-stack phases exist only with KSTACK
(30_encoding.md R66), a window access lies in the window (R70), program operations and draws are well
formed, a drawn SP fits SP_W bits. -/
def Instr.wf (cfg : Cfg) : Instr → Bool
  | .idle ops => opsWf cfg ops
  | .entSave => true
  | .entBankRead => true
  | .entKstackSwitch => cfg.kstack
  | .entBankForce => true
  | .dspBrkCheck => true
  | .dspLatchRead _ => true
  | .dspTableLo => true
  | .dspTableHi => true
  | .dspJump => true
  | .handler10Fdc0Drq => true
  | .handler20Fdc1Drq => true
  | .handler30Fdc0Irq => true
  | .handler40Fdc1Irq => true
  | .handler50Ser0RxPoll _ => true
  | .handler51Ser0RxRead _ => true
  | .handler52Ser0TxPoll _ => true
  | .handler53Ser0TxWrite => true
  | .handler60Ser1 => true
  | .rstBankWrite => true
  | .rstKstackRestore => cfg.kstack
  | .rstPop => true
  | .rstRti => true
  | .faultUnmappedSource => true
  | .faultStackOverflow => true
  | .faultBankUnwritten => true
  | .faultSpinLimit => true
  | .evProg ops => opsWf cfg ops
  | .evReset d => d.sp.all fun v => decide (v < 2 ^ cfg.spW)
  | .evIrq => true
  | .evSwi => true
  | .evNmi => true
  | .evStep mode d => drawsWf mode d
  | .latch02Fdc0Drq => true
  | .latch04Fdc1Drq => true
  | .latch06Fdc0Irq => true
  | .latch08Fdc1Irq => true
  | .latch0ASer0Irq => true
  | .latch0CSer1Irq => true
  | .latchReservedGuard => true
  | .latchReservedOdd _ => true
  | .latchReserved0E => true
  | .latchReserved10To1E _ => true
  | .latchReserved20To3E _ => true
  | .latchReserved40To7E _ => true
  | .latchReserved80ToFE _ => true
  | .addrBank0Read => true
  | .addrBank0Write _ => true
  | .addrIntLatch _ => true
  | .addrVecNmi _ => true
  | .addrVecReset _ => true
  | .addrVecIrq _ => true
  | .addrJtSlot0 _ => true
  | .addrJtSlot1 _ => true
  | .addrJtSlot2 _ => true
  | .addrJtSlot3 _ => true
  | .addrJtSlot4 _ => true
  | .addrJtSlot5 _ => true
  | .addrJtSlot6 _ => true
  | .addrUartDataRead _ => true
  | .addrUartDataWrite _ => true
  | .addrUartStatus _ => true
  | .addrUartCmd _ => true
  | .addrUartCtrl _ => true
  | .addrWindow a _ => decide (Machine.addrTarget cfg a = .window)
  | .pseudoWithBank0 action => action.wf cfg
  | .pseudoActivation d => drawsWf .activation d
  | .pseudoCli => true
  | .pseudoSei => true

end Sys2Proof
end

