-- ==== Sys2Proof/Decode.lean ====
section
/-! DEFINITION. Decoding each format of 30_encoding.md to an operation, total and rejecting by name;
the encoder; and the host's reading of an opcode-table word. -/

namespace Sys2Proof

open Sys2Proof.Machine

/-- Why a code stands for no row of spec/opcode_table.json. -/
inductive DecodeError where
  /-- a phase word that matches no row (R66) -/
  | reservedPhaseWord (w : PhaseWord)
  /-- event code 6 or 7 (R67, R80) -/
  | reservedEvent (code : EventCode)
  /-- a write to the vector table or the jump table (20_memory.md R44) -/
  | imageWrite (a : Addr)
  /-- plain unbanked memory: an access of R43, R44 that is no row of the table -/
  | plainMemory (a : Addr)
  deriving DecidableEq, Repr

/-- The phase words of R65, R66 and the micro-step each selects, with the values presented to it. -/
def decodePhase (w : PhaseWord) (v : StepVals) : Except DecodeError Instr :=
  match w with
  | 0x000#9 => .ok (.idle v.ops)
  | 0x001#9 => .ok .entSave
  | 0x002#9 => .ok .entBankRead
  | 0x003#9 => .ok .entKstackSwitch
  | 0x004#9 => .ok .entBankForce
  | 0x005#9 => .ok .dspBrkCheck
  | 0x006#9 => .ok (.dspLatchRead v.latch)
  | 0x007#9 => .ok .dspTableLo
  | 0x008#9 => .ok .dspTableHi
  | 0x009#9 => .ok .dspJump
  | 0x01A#9 => .ok .handler10Fdc0Drq
  | 0x02A#9 => .ok .handler20Fdc1Drq
  | 0x03A#9 => .ok .handler30Fdc0Irq
  | 0x04A#9 => .ok .handler40Fdc1Irq
  | 0x05A#9 => .ok (.handler50Ser0RxPoll v.status)
  | 0x0DA#9 => .ok (.handler51Ser0RxRead v.data)
  | 0x15A#9 => .ok (.handler52Ser0TxPoll v.status)
  | 0x1DA#9 => .ok .handler53Ser0TxWrite
  | 0x06A#9 => .ok .handler60Ser1
  | 0x00B#9 => .ok .rstBankWrite
  | 0x00C#9 => .ok .rstKstackRestore
  | 0x00D#9 => .ok .rstPop
  | 0x00E#9 => .ok .rstRti
  | 0x01F#9 => .ok .faultUnmappedSource
  | 0x02F#9 => .ok .faultStackOverflow
  | 0x03F#9 => .ok .faultBankUnwritten
  | 0x04F#9 => .ok .faultSpinLimit
  | w => .error (.reservedPhaseWord w)

/-- Event codes (R67). -/
def decodeEvent (code : EventCode) (p : Payload) : Except DecodeError Instr :=
  match code with
  | 0#3 => .ok (.evProg p.ops)
  | 1#3 => .ok (.evReset p.regs)
  | 2#3 => .ok .evIrq
  | 3#3 => .ok .evSwi
  | 4#3 => .ok .evNmi
  | 5#3 => .ok (.evStep p.mode p.draws)
  | code => .error (.reservedEvent code)

/-- Pseudo-operation names (R79). -/
def decodePseudo (name : PseudoName) (p : Payload) : Instr :=
  match name with
  | .withBank0 => .pseudoWithBank0 p.action
  | .activation => .pseudoActivation p.draws
  | .cli => .pseudoCli
  | .sei => .pseudoSei

/-- A line of the script (R78). -/
def decodeLine (l : Line) : Except DecodeError Instr :=
  match l with
  | .event code p => decodeEvent code p
  | .pseudo name p => .ok (decodePseudo name p)

/-- Latch decode (R68, R69): every byte belongs to one of the thirteen rows. -/
def decodeLatch (v : Byte) : Instr :=
  if v.extractLsb' 0 1 = 1#1 then .latchReservedOdd (v.extractLsb' 1 7)
  else if v = 0x00 then .latchReservedGuard
  else if v = 0x02 then .latch02Fdc0Drq
  else if v = 0x04 then .latch04Fdc1Drq
  else if v = 0x06 then .latch06Fdc0Irq
  else if v = 0x08 then .latch08Fdc1Irq
  else if v = 0x0A then .latch0ASer0Irq
  else if v = 0x0C then .latch0CSer1Irq
  else if v = 0x0E then .latchReserved0E
  else if v &&& 0xF1 = 0x10 then .latchReserved10To1E (v.extractLsb' 1 3)
  else if v &&& 0xE1 = 0x20 then .latchReserved20To3E (v.extractLsb' 1 4)
  else if v &&& 0xC1 = 0x40 then .latchReserved40To7E (v.extractLsb' 1 5)
  else .latchReserved80ToFE (v.extractLsb' 1 6)

/-- The vector row and byte a vector-table address selects (20_memory.md R41). -/
def decodeVector (a : Addr) : Instr :=
  match (a - nmiVector).toNat with
  | 0 => .addrVecNmi false
  | 1 => .addrVecNmi true
  | 2 => .addrVecReset false
  | 3 => .addrVecReset true
  | 4 => .addrVecIrq false
  | _ => .addrVecIrq true

/-- The slot row and byte a jump-table offset selects (20_memory.md R48; the offset, not the table's
mask, decides: log 18). -/
def decodeSlot (off : Nat) : Instr :=
  let hi := decide (off % 2 = 1)
  match off / 2 with
  | 0 => .addrJtSlot0 hi
  | 1 => .addrJtSlot1 hi
  | 2 => .addrJtSlot2 hi
  | 3 => .addrJtSlot3 hi
  | 4 => .addrJtSlot4 hi
  | 5 => .addrJtSlot5 hi
  | _ => .addrJtSlot6 hi

/-- The UART row a register number and access select (20_memory.md R50). -/
def decodeUart (reg : Nat) (acc : Access) : Instr :=
  match reg, acc with
  | 0, .read d => .addrUartDataRead d
  | 0, .write b => .addrUartDataWrite b
  | 1, acc => .addrUartStatus acc
  | 2, acc => .addrUartCmd acc
  | _, acc => .addrUartCtrl acc

/-- Bus address decode (R70). -/
def decodeBus (cfg : Cfg) (a : Addr) (acc : Access) : Except DecodeError Instr :=
  match addrTarget cfg a, acc with
  | .bank0, .read _ => .ok .addrBank0Read
  | .bank0, .write v => .ok (.addrBank0Write v)
  | .intLatch, acc => .ok (.addrIntLatch acc)
  | .vector, .read _ => .ok (decodeVector a)
  | .vector, .write _ => .error (.imageWrite a)
  | .table, .read _ => .ok (decodeSlot (tableOffset cfg a))
  | .table, .write _ => .error (.imageWrite a)
  | .uart, acc => .ok (decodeUart (uartOffset cfg a) acc)
  | .window, acc => .ok (.addrWindow a acc)
  | .memory, _ => .error (.plainMemory a)

/-- The decoder: any code of any format to an operation, or a rejection by name. -/
def decode (cfg : Cfg) (c : Code) : Except DecodeError Instr :=
  match c with
  | .phase w v => decodePhase w v
  | .line l => decodeLine l
  | .latch v => .ok (decodeLatch v)
  | .bus a acc => decodeBus cfg a acc

/-- The encoder: the code of an operation, written from the tables of 30_encoding.md. -/
def encode (cfg : Cfg) (i : Instr) : Code :=
  match i with
  | .idle ops => .phase 0x000 { ops := ops }
  | .entSave => .phase 0x001 {}
  | .entBankRead => .phase 0x002 {}
  | .entKstackSwitch => .phase 0x003 {}
  | .entBankForce => .phase 0x004 {}
  | .dspBrkCheck => .phase 0x005 {}
  | .dspLatchRead v => .phase 0x006 { latch := v }
  | .dspTableLo => .phase 0x007 {}
  | .dspTableHi => .phase 0x008 {}
  | .dspJump => .phase 0x009 {}
  | .handler10Fdc0Drq => .phase 0x01A {}
  | .handler20Fdc1Drq => .phase 0x02A {}
  | .handler30Fdc0Irq => .phase 0x03A {}
  | .handler40Fdc1Irq => .phase 0x04A {}
  | .handler50Ser0RxPoll v => .phase 0x05A { status := v }
  | .handler51Ser0RxRead v => .phase 0x0DA { data := v }
  | .handler52Ser0TxPoll v => .phase 0x15A { status := v }
  | .handler53Ser0TxWrite => .phase 0x1DA {}
  | .handler60Ser1 => .phase 0x06A {}
  | .rstBankWrite => .phase 0x00B {}
  | .rstKstackRestore => .phase 0x00C {}
  | .rstPop => .phase 0x00D {}
  | .rstRti => .phase 0x00E {}
  | .faultUnmappedSource => .phase 0x01F {}
  | .faultStackOverflow => .phase 0x02F {}
  | .faultBankUnwritten => .phase 0x03F {}
  | .faultSpinLimit => .phase 0x04F {}
  | .evProg ops => .line (.event 0 { ops := ops })
  | .evReset d => .line (.event 1 { regs := d })
  | .evIrq => .line (.event 2 {})
  | .evSwi => .line (.event 3 {})
  | .evNmi => .line (.event 4 {})
  | .evStep mode d => .line (.event 5 { mode := mode, draws := d })
  | .latch02Fdc0Drq => .latch 0x02
  | .latch04Fdc1Drq => .latch 0x04
  | .latch06Fdc0Irq => .latch 0x06
  | .latch08Fdc1Irq => .latch 0x08
  | .latch0ASer0Irq => .latch 0x0A
  | .latch0CSer1Irq => .latch 0x0C
  | .latchReservedGuard => .latch 0x00
  | .latchReservedOdd hi => .latch (hi ++ 1#1)
  | .latchReserved0E => .latch 0x0E
  | .latchReserved10To1E n => .latch (0x1#4 ++ n ++ 0#1)
  | .latchReserved20To3E n => .latch (0x1#3 ++ n ++ 0#1)
  | .latchReserved40To7E n => .latch (0x1#2 ++ n ++ 0#1)
  | .latchReserved80ToFE n => .latch (0x1#1 ++ n ++ 0#1)
  | .addrBank0Read => .bus bank0Addr (.read 0)
  | .addrBank0Write page => .bus bank0Addr (.write page)
  | .addrIntLatch acc => .bus latchAddr acc
  | .addrVecNmi hi => .bus (vectorAddr nmiVector hi) (.read 0)
  | .addrVecReset hi => .bus (vectorAddr resetVector hi) (.read 0)
  | .addrVecIrq hi => .bus (vectorAddr irqVector hi) (.read 0)
  | .addrJtSlot0 hi => .bus (slotAddr cfg 0 hi) (.read 0)
  | .addrJtSlot1 hi => .bus (slotAddr cfg 1 hi) (.read 0)
  | .addrJtSlot2 hi => .bus (slotAddr cfg 2 hi) (.read 0)
  | .addrJtSlot3 hi => .bus (slotAddr cfg 3 hi) (.read 0)
  | .addrJtSlot4 hi => .bus (slotAddr cfg 4 hi) (.read 0)
  | .addrJtSlot5 hi => .bus (slotAddr cfg 5 hi) (.read 0)
  | .addrJtSlot6 hi => .bus (slotAddr cfg 6 hi) (.read 0)
  | .addrUartDataRead d => .bus (uartData cfg) (.read d)
  | .addrUartDataWrite b => .bus (uartData cfg) (.write b)
  | .addrUartStatus acc => .bus (uartStatus cfg) acc
  | .addrUartCmd acc => .bus (uartCmd cfg) acc
  | .addrUartCtrl acc => .bus (uartCtrl cfg) acc
  | .addrWindow a acc => .bus a acc
  | .pseudoWithBank0 action => .line (.pseudo .withBank0 { action := action })
  | .pseudoActivation d => .line (.pseudo .activation { draws := d })
  | .pseudoCli => .line (.pseudo .cli {})
  | .pseudoSei => .line (.pseudo .sei {})

/-- A phase word is one of a row of the opcode table (R66). -/
def isPhaseRow (w : PhaseWord) : Bool :=
  match decodePhase w {} with
  | .ok _ => true
  | .error _ => false

/-- The code that an opcode-table word of `nbits` bits stands for, operands zero. The table gives no
bit that tells EV3 from LATCH8 words or PW9 from ADDR16 words: an event code or a phase row is read
as such, any other word as a latch byte or a bus read (DESIGN CHOICE, log 22). -/
def tableCode (nbits w : Nat) : Option Code :=
  if nbits ≤ 8 then
    if w < 6 then some (.line (.event (BitVec.ofNat 3 w) {}))
    else if w < 256 then some (.latch (BitVec.ofNat 8 w))
    else none
  else if nbits ≤ 16 then
    if w < 512 && isPhaseRow (BitVec.ofNat 9 w) then some (.phase (BitVec.ofNat 9 w) {})
    else if w < 65536 then some (.bus (BitVec.ofNat 16 w) (.read 0))
    else none
  else none

/-- The operation the decoder reads from a word of the opcode table, under the configuration of
`State.reset` where the table's word is an address. -/
def decodeTableWord (nbits w : Nat) : Option Instr :=
  match tableCode nbits w with
  | some c =>
    match decode Config.atReset c with
    | .ok i => some i
    | .error _ => none
  | none => none

end Sys2Proof
end

