-- ==== Sys2Proof/Machine/State.lean ====
section
/-! DEFINITION. The state of the machine as plain data: every piece of state 10_state.md gives the
block, plain memory, the configuration, and three fields of the model's own (log 4, 19). -/

namespace Sys2Proof.Machine

/-- The fault codes of 30_encoding.md R75. A fault is raised by the step its docstring names and
recorded in `State.fault`; every step from a faulted state then stops with the same reason
(60_exceptions.md R131; log 6). All four are safe: nothing is claimed past them. -/
inductive Fault where
  /-- code 1, raised by DSP_LATCH_READ on a latch value of no source (R132); safe -/
  | unmappedSource
  /-- code 2, raised by IRQ or SWI acceptance at depth = MAX_DEPTH (R133); safe -/
  | stackOverflow
  /-- code 3, raised by a read of $F000 while BANK0 is unwritten (R134); safe -/
  | bankUnwritten
  /-- code 4, raised by an unready poll that reaches MAX_SPINS (R135); safe -/
  | spinLimit
  deriving DecidableEq, Repr

/-- Why a step has no meaning (00_scope.md R13 "Refused"). All are safe: no next state is claimed. -/
inductive Refusal where
  /-- an instruction without a meaning yet; raised by `exec` only; safe -/
  | notModelled (mnemonic : String)
  /-- the phase word matches no row (R66); raised by event 5; safe -/
  | reservedPhaseWord (w : PhaseWord)
  /-- event code 6 or 7 (R80); raised by the fetch; safe -/
  | reservedEvent (code : EventCode)
  /-- a kernel-stack phase word with KSTACK = false (R66); raised by that micro-step; safe -/
  | kstackAbsent
  /-- a write to the vector table or the jump table (20_memory.md R44); raised by the write; safe -/
  | imageWrite (a : Addr)
  /-- a bus code of no table row where a row is needed; the fetch of lines never raises it; safe -/
  | noRow (a : Addr)
  /-- a configuration that fails 00_scope.md R10; raised by every step; safe -/
  | configurationRefused
  /-- a micro-step on the top frame with no frame, unreachable by R38 (a); safe (log 15) -/
  | noFrame
  deriving DecidableEq, Repr

/-- Which stack is active (10_state.md R18). -/
inductive StackSel where
  | user
  | kernel
  deriving DecidableEq, Repr

/-- The place an activation returns to (10_state.md R24). -/
inductive Position where
  /-- the interrupted program at PC = pc -/
  | prog (pc : Addr)
  /-- handler `h` at micro-step `step`, with its temporaries -/
  | hnd (h : BitVec 3) (step : BitVec 2) (rx : Byte) (spins : Nat)
  deriving DecidableEq, Repr

/-- The frame record of 10_state.md R23. -/
structure Frame where
  ret  : Position
  p    : Byte
  brk  : Bool
  a    : Byte
  x    : Byte
  y    : Byte
  bank : Byte
  sp   : Nat
  ssel : StackSel
  deriving DecidableEq, Repr

/-- The events of the history (10_state.md R30). -/
inductive Event where
  | rd (a : Addr) (v : Byte)
  | wr (a : Addr) (v : Byte)
  | irq
  | swi
  | nmi
  | reset
  | brkUnimplemented
  | fault (code : Fault) (info : Nat)
  deriving DecidableEq, Repr

/-- Plain memory: the bytes known since the last reset, written or read, as (location, byte),
locations strictly rising. A location that is not listed reads as whatever the environment supplies
then (20_memory.md R60; log 8). -/
abbrev Memory := List Host.Cell

/-- The machine's state. -/
structure State where
  /-- the configuration, fixed for a run (00_scope.md R9) -/
  cfg       : Cfg
  /-- A (R18) -/
  a         : Byte
  /-- X (R18) -/
  x         : Byte
  /-- Y (R18) -/
  y         : Byte
  /-- P (R18, R31) -/
  p         : Byte
  /-- PC (R19) -/
  pc        : Addr
  /-- SP, below 2^SP_W (R18; log 14) -/
  sp        : Nat
  /-- SSEL (R18) -/
  ssel      : StackSel
  /-- the phase word (R20, R64) -/
  phase     : PhaseWord
  /-- the activation's latch value (R21) -/
  off       : Byte
  /-- the jump-table low byte (R21) -/
  lo        : Byte
  /-- the jump-table high byte (R21) -/
  hi        : Byte
  /-- the serial-0 handler's received byte (R21) -/
  rx        : Byte
  /-- the busy-wait counter (R21) -/
  spins     : Nat
  /-- the frame stack, last pushed first (R22) -/
  frames    : List Frame
  /-- BANK0's content; none: never written since reset (R25) -/
  bank0     : Option Byte
  /-- the IRQ mask (R26) -/
  imask     : Bool
  /-- the sector counter, meaningful with SECTOR (R27) -/
  sectorPtr : BitVec 16
  /-- the break branch point was taken, sticky (R28) -/
  brkUnimpl : Bool
  /-- the first fault (R29) -/
  fault     : Option Fault
  /-- the events so far, in order (R30) -/
  history   : List Event
  /-- plain memory (20_memory.md R43 to R45, R60) -/
  mem       : Memory
  /-- the model's own: the program steps still to come of the `withBank0`s the program is in
  (41_bankswitch.md R91, R95; log 19) -/
  pending   : ProgSeq
  /-- the model's own: the environment's upcoming lines (log 4) -/
  script    : List Line
  /-- the model's own: the count of lines taken, index of free values (log 4) -/
  drawCount : Nat
  deriving DecidableEq, Repr

/-- What a step answers. -/
abbrev Out := Host.Outcome State Fault Refusal

/-- The machine right after reset under a configuration (10_state.md R37, 70_reset_and_hazards.md
R154). A, X, Y, P, SP, the temporaries and sector_ptr are unspecified by the spec and are zero here
(DESIGN CHOICE, unsafe: log 2, 3). -/
def State.resetOf (cfg : Cfg) : State where
  cfg := cfg
  a := 0
  x := 0
  y := 0
  p := 0
  pc := word16 cfg.vec.reset.hi cfg.vec.reset.lo
  sp := 0
  ssel := .user
  phase := 0x000
  off := 0
  lo := 0
  hi := 0
  rx := 0
  spins := 0
  frames := []
  bank0 := cfg.bankReset
  imask := true
  sectorPtr := 0
  brkUnimpl := false
  fault := none
  history := [.reset, .rd 0xFFFC cfg.vec.reset.lo, .rd 0xFFFD cfg.vec.reset.hi]
  mem := []
  pending := .done
  script := []
  drawCount := 0

/-- The machine right after reset, under the configuration log 1 names. -/
def State.reset : State := State.resetOf Config.atReset

end Sys2Proof.Machine
end

