-- ==== Sys2Proof/Machine/Flags.lean ====
section
/-! DEFINITION. The status bits the block reads: the break flag of the pushed status byte, and the
two UART STATUS bits (10_state.md R31, R32; 30_encoding.md R71, R72). -/

namespace Sys2Proof.Machine

/-- The pushed status byte `pstat(f)` (R72). -/
def pushedStatus (cfg : Cfg) (f : Frame) : Byte :=
  (f.p &&& ~~~cfg.brkMask) ||| (if f.brk then cfg.brkMask else 0)

/-- The break flag of the pushed status byte (R72, 43_dispatch.md R105). -/
def breakFlag (cfg : Cfg) (f : Frame) : Bool := decide (pushedStatus cfg f &&& cfg.brkMask ≠ 0)

/-- rx-full: bit 3 of UART STATUS (R71). -/
def rxFull (status : Byte) : Bool := decide (status &&& 0x08 ≠ 0)

/-- tx-empty: bit 4 of UART STATUS (R71). -/
def txEmpty (status : Byte) : Bool := decide (status &&& 0x10 ≠ 0)

end Sys2Proof.Machine
end

