-- ==== Sys2Proof/Machine/Operands.lean ====
section
/-! DEFINITION. Operand assembly (30_encoding.md R76): latch validity and handler index, table
addresses, the jump target, and the phase words of R64, R65. -/

namespace Sys2Proof.Machine

def phIdle : PhaseWord := 0x000
def phEntSave : PhaseWord := 0x001
def phEntBankRead : PhaseWord := 0x002
def phEntKstackSwitch : PhaseWord := 0x003
def phEntBankForce : PhaseWord := 0x004
def phDspBrkCheck : PhaseWord := 0x005
def phDspLatchRead : PhaseWord := 0x006
def phDspTableLo : PhaseWord := 0x007
def phDspTableHi : PhaseWord := 0x008
def phDspJump : PhaseWord := 0x009
def phRstBankWrite : PhaseWord := 0x00B
def phRstKstackRestore : PhaseWord := 0x00C
def phRstPop : PhaseWord := 0x00D
def phRstRti : PhaseWord := 0x00E

/-- HANDLER(h, step): code 0xA in [3:0], h in [6:4], step in [8:7] (R64). -/
def handlerWord (h : BitVec 3) (step : BitVec 2) : PhaseWord := step ++ h ++ 0xA#4

/-- The handler index in a phase word, bits [6:4] (R64). -/
def phaseHandler (w : PhaseWord) : BitVec 3 := w.extractLsb' 4 3

/-- The handler step in a phase word, bits [8:7] (R64). -/
def phaseStep (w : PhaseWord) : BitVec 2 := w.extractLsb' 7 2

/-- The phase word is one of the nine HANDLER rows of R66. -/
def isHandler (w : PhaseWord) : Bool :=
  [0x01A#9, 0x02A#9, 0x03A#9, 0x04A#9, 0x05A#9, 0x0DA#9, 0x15A#9, 0x1DA#9, 0x06A#9].contains w

/-- FAULT(code): code 0xF in [3:0], the fault code of R75 in [7:4] (R64). -/
def faultWord (c : Fault) : PhaseWord :=
  match c with
  | .unmappedSource => 0x01F
  | .stackOverflow => 0x02F
  | .bankUnwritten => 0x03F
  | .spinLimit => 0x04F

/-- The fault code a phase word names, if it is a FAULT word of R66. -/
def faultOfWord (w : PhaseWord) : Option Fault :=
  if w = faultWord .unmappedSource then some .unmappedSource
  else if w = faultWord .stackOverflow then some .stackOverflow
  else if w = faultWord .bankUnwritten then some .bankUnwritten
  else if w = faultWord .spinLimit then some .spinLimit
  else none

/-- A latch value that names a source: `v[0] = 0 ∧ 2 ≤ v ≤ 12` (43_dispatch.md R106). -/
def latchValid (v : Byte) : Bool :=
  decide (v.extractLsb' 0 1 = 0#1) && decide (2 ≤ v.toNat) && decide (v.toNat ≤ 12)

/-- The handler index `v >> 1` of a latch value, as the 3-bit field of the phase word (R76 (a),
43_dispatch.md R107). For the six valid values no bit is dropped. -/
def handlerIndex (v : Byte) : BitVec 3 := v.extractLsb' 1 3

/-- The jump-table address of the low byte: `TABLE_BASE + off` (43_dispatch.md R108). -/
def tableLoAddr (cfg : Cfg) (off : Byte) : Addr := cfg.tableBase + off.setWidth 16

/-- The jump-table address of the high byte: `TABLE_BASE + off + 1` (43_dispatch.md R109). -/
def tableHiAddr (cfg : Cfg) (off : Byte) : Addr := cfg.tableBase + off.setWidth 16 + 1

/-- The location key of a byte of a window page (20_memory.md R45: physical location = (page,
addr)). -/
def bankedLoc (page : Byte) (a : Addr) : Nat := page.toNat * 65536 + a.toNat

/-- The location key of a byte of unbanked memory, above every page. -/
def plainLoc (a : Addr) : Nat := 256 * 65536 + a.toNat

end Sys2Proof.Machine
end

