-- ==== Sys2Proof/Machine/Ops.lean ====
section
/-! DEFINITION. The named operations over memory, bus, history and frames that the meanings share:
plain memory, the bus accesses of 20_memory.md R43, R44, raising a fault (60_exceptions.md R131),
taking an interrupt (42_entry.md R98, R99) and returning from one (45_restore.md R129). -/

namespace Sys2Proof.Machine

/-! ### Plain memory -/

/-- The byte written at a location, if any. -/
def Memory.lookup (m : Memory) (loc : Nat) : Option Byte :=
  match m with
  | [] => none
  | (k, v) :: rest => if k = loc then some v else Memory.lookup rest loc

/-- Write one byte, keeping the locations strictly rising. -/
def Memory.write (m : Memory) (loc : Nat) (v : Byte) : Memory :=
  match m with
  | [] => [(loc, v)]
  | (k, w) :: rest =>
    if loc < k then (loc, v) :: (k, w) :: rest
    else if loc = k then (loc, v) :: rest
    else (k, w) :: Memory.write rest loc v

/-- The canonical form: locations strictly rising. No listed byte can equal what an unlisted location
reads as, since that is no known byte (log 8). -/
def Memory.wf (m : Memory) : Bool :=
  match m with
  | [] => true
  | [_] => true
  | (k, _) :: (k', w) :: rest => decide (k < k') && Memory.wf ((k', w) :: rest)

/-- The byte a read of a location returns: the one known there, else the one the environment's memory
oracle supplies with the read (20_memory.md R43, R60; log 8). -/
def State.byteAt (s : State) (loc : Nat) (supplied : Byte) : Byte :=
  match Memory.lookup s.mem loc with
  | some v => v
  | none => supplied

/-- Store a byte of plain memory. -/
def State.storeByte (s : State) (loc : Nat) (v : Byte) : State :=
  { s with mem := Memory.write s.mem loc v }

/-- A read fixes the location's byte until it is written: the stable unknown of 20_memory.md R60
(log 8). -/
def State.learnByte (s : State) (loc : Nat) (supplied : Byte) : State :=
  match Memory.lookup s.mem loc with
  | some _ => s
  | none => s.storeByte loc supplied

/-! ### History, faults -/

/-- `Emit(e)`: append an event to the history (00_scope.md R12). -/
def State.emit (s : State) (e : Event) : State := { s with history := s.history ++ [e] }

/-- `raise Fault(code, info)` (60_exceptions.md R131): the Fault event, the fault record, phase
FAULT(code), and nothing else. -/
def raise (s : State) (c : Fault) (info : Nat) : State :=
  { s with history := s.history ++ [.fault c info], fault := some c, phase := faultWord c }

/-- The fault a state has stopped with: its record, or the FAULT phase itself (R35, R131; log 6). -/
def stopped (s : State) : Option Fault :=
  match s.fault with
  | some c => some c
  | none => faultOfWord s.phase

/-- What part of a step ends in: the step goes on, it raised a fault, or it is refused. -/
inductive Flow where
  | go (s : State)
  | raised (s : State)
  | refused (r : Refusal)
  deriving DecidableEq, Repr

/-- A precise fault (60_exceptions.md R131): of a step that started in `s` and raised one, the recorded
events, the fault and the FAULT phase stand, and every other write is undone. The spin count stands
as 40_serialio.md R87 counted it (log 7). -/
def precise (s : State) (f : Flow) : Flow :=
  match f with
  | .go t => .go t
  | .raised t =>
    .raised { s with history := t.history, fault := t.fault, phase := t.phase, spins := t.spins }
  | .refused r => .refused r

/-- Continue a step that goes on. -/
def Flow.andThen (f : Flow) (k : State → Flow) : Flow :=
  match f with
  | .go s => k s
  | .raised s => .raised s
  | .refused r => .refused r

/-- The outcome of a whole step. A raised fault is a next state: the state in phase FAULT (R131). -/
def Flow.toOut (f : Flow) : Out :=
  match f with
  | .go s => .next s
  | .raised s => .next s
  | .refused r => .refused r

/-! ### Bus accesses -/

/-- The location of plain memory that an access uses (20_memory.md R45): none for a register or the
image, and for a window access while the selector is unwritten or names no page (log 10). -/
def memoryLoc (s : State) (t : Target) (a : Addr) : Option Nat :=
  match t with
  | .window =>
    match s.bank0 with
    | some b => if b.toNat < s.cfg.nBanks then some (bankedLoc b a) else none
    | none => none
  | .memory => some (plainLoc a)
  | .bank0 => none
  | .intLatch => none
  | .vector => none
  | .table => none
  | .uart => none

/-- What the environment supplies to a read of plain memory: the location's byte, or a draw where the
window shows no page. -/
def suppliedByte (s : State) (t : Target) (a : Addr) (draw : Byte) : Byte :=
  match memoryLoc s t a with
  | some loc => s.byteAt loc draw
  | none => draw

/-- The value a read returns (20_memory.md R43), `draw` being what the device, the window or the memory
oracle supplies (30_encoding.md R78): `none` is BANK0 unwritten. -/
def readValue (s : State) (t : Target) (a : Addr) (draw : Byte) : Option Byte :=
  match t with
  | .bank0 => s.bank0
  | .intLatch => some draw
  | .vector => some (vectorByte s.cfg a)
  | .table => some (tableByte s.cfg a)
  | .uart => some draw
  | .window => some (suppliedByte s t a draw)
  | .memory => some (suppliedByte s t a draw)

/-- What a read leaves behind: its byte of plain memory is fixed, and nothing else changes. -/
def afterRead (s : State) (t : Target) (a : Addr) (draw : Byte) : State :=
  match memoryLoc s t a with
  | some loc => s.learnByte loc draw
  | none => s

/-- The page a window write goes to: the selector's, or an unspecified one while nothing has written
the selector (20_memory.md R45, 70_reset_and_hazards.md R156; log 10). -/
def writePage (s : State) : Byte :=
  match s.bank0 with
  | some b => b
  | none => Config.freeByte s.drawCount s.history.length

/-- `MemRead(a, 1)` where `a` selects `t`: the value read, with `Rd` recorded; `none` where the
selector is unwritten, and then nothing is recorded (R43). -/
def busRead (s : State) (t : Target) (a : Addr) (draw : Byte) : Option (Byte × State) :=
  match readValue s t a draw with
  | some v => some (v, (afterRead s t a draw).emit (.rd a v))
  | none => none

/-- `MemRead(a, 1)`, the address decoded by 30_encoding.md R70. -/
def memRead (s : State) (a : Addr) (draw : Byte) : Option (Byte × State) :=
  busRead s (addrTarget s.cfg a) a draw

/-- Raise BANK_UNWRITTEN, info $F000 (60_exceptions.md R134). -/
def bankUnwritten (s : State) : Flow := .raised (raise s .bankUnwritten bank0Addr.toNat)

/-- A read and what the step does with the value; an unwritten BANK0 raises its fault (R134). -/
def readThen (s : State) (t : Target) (a : Addr) (draw : Byte) (k : Byte → State → Flow) : Flow :=
  match busRead s t a draw with
  | some (v, s') => k v s'
  | none => bankUnwritten s

/-- `MemWrite(a, 1, v)` where `a` selects `t` (20_memory.md R44): `Wr` recorded, then the effect. A
window write is lost when the page does not exist (R45); a device takes its byte and no block state
changes (R50; a write of STATUS: log 17); a write to the image is refused. -/
def busWrite (s : State) (t : Target) (a : Addr) (v : Byte) : Flow :=
  let s' := s.emit (.wr a v)
  match t with
  | .bank0 => .go { s' with bank0 := some v }
  | .intLatch => .go s'
  | .vector => .refused (.imageWrite a)
  | .table => .refused (.imageWrite a)
  | .uart => .go s'
  | .window =>
    if (writePage s).toNat < s.cfg.nBanks then .go (s'.storeByte (bankedLoc (writePage s) a) v)
    else .go s'
  | .memory => .go (s'.storeByte (plainLoc a) v)

/-- `MemWrite(a, 1, v)`, the address decoded by 30_encoding.md R70. -/
def memWrite (s : State) (a : Addr) (v : Byte) : Flow := busWrite s (addrTarget s.cfg a) a v

/-- One bus access as a step: the read's value is in the history. -/
def busAccess (s : State) (t : Target) (a : Addr) (acc : Access) : Flow :=
  match acc with
  | .read draw => readThen s t a draw fun _ s' => .go s'
  | .write v => busWrite s t a v

/-- The two vector reads, low byte first (20_memory.md R41, R49): the entry and the state with both
`Rd` events recorded. -/
def fetchVector (s : State) (base : Addr) : Addr × State :=
  let lo := vectorByte s.cfg base
  let hi := vectorByte s.cfg (base + 1)
  (word16 hi lo, (s.emit (.rd base lo)).emit (.rd (base + 1) hi))

/-! ### Taking an interrupt and returning from one -/

/-- The frame acceptance pushes (42_entry.md R98, R99): the return position, the pre-entry P and the
break flag. The fields later micro-steps write are unset: free values (10_state.md R23; log 11). -/
def newFrame (s : State) (ret : Position) (brk : Bool) : Frame where
  ret := ret
  p := s.p
  brk := brk
  a := Config.freeByte s.drawCount 0
  x := Config.freeByte s.drawCount 1
  y := Config.freeByte s.drawCount 2
  bank := Config.freeByte s.drawCount 3
  sp := Config.freeNat s.drawCount 4 % 2 ^ s.cfg.spW
  ssel := if Config.freeBit s.drawCount 5 then .kernel else .user

/-- The position acceptance saves: the program's at IDLE, else the interrupted handler's with its
temporaries (42_entry.md R98, 10_state.md R24). -/
def returnPosition (s : State) : Position :=
  if s.phase = phIdle then .prog s.pc
  else .hnd (phaseHandler s.phase) (phaseStep s.phase) s.rx s.spins

/-- Taking an IRQ or SWI (42_entry.md R98, R99): its event, the two reads of the IRQ vector, a new
frame on top, PC from the vector, phase ENT_SAVE. -/
def acceptInterrupt (s : State) (e : Event) (ret : Position) (brk : Bool) : State :=
  let (entry, s') := fetchVector (s.emit e) irqVector
  { s' with frames := newFrame s ret brk :: s.frames, pc := entry, phase := phEntSave }

/-- Acceptance with the depth check: STACK_OVERFLOW, info the depth, when depth = MAX_DEPTH (R98,
60_exceptions.md R133). -/
def acceptOrOverflow (s : State) (e : Event) (ret : Position) (brk : Bool) : Flow :=
  if s.frames.length = s.cfg.maxDepth then
    .raised (raise s .stackOverflow s.frames.length)
  else .go (acceptInterrupt s e ret brk)

/-- An IRQ may be accepted here (42_entry.md R97): unmasked, and at IDLE or, with NEST_ENABLE, at a
handler step. -/
def irqEnabled (s : State) : Bool :=
  !s.imask && (decide (s.phase = phIdle) || (isHandler s.phase && s.cfg.nestEnable))

/-- Return from interrupt (45_restore.md R129): P from the frame, the frame popped, and the return
position taken up. -/
def returnFromInterrupt (s : State) (f : Frame) (rest : List Frame) : State :=
  match f.ret with
  | .prog pc => { s with p := f.p, frames := rest, pc := pc, phase := phIdle }
  | .hnd h st rx spins =>
    { s with p := f.p, frames := rest, rx := rx, spins := spins, phase := handlerWord h st }

/-- A micro-step on the top frame; refused when there is none, which R38 (a) excludes (log 15). -/
def withTop (s : State) (k : Frame → List Frame → Flow) : Flow :=
  match s.frames with
  | [] => .refused .noFrame
  | f :: rest => k f rest

/-! ### Busy-waits -/

/-- `spin_check(s)` (40_serialio.md R87): with MAX_SPINS = some n, one more unready poll, and
SPIN_LIMIT with the status byte when the count reaches n. The count stands in the faulted state, as
the rule writes it before its check (log 7). -/
def spinCheck (s : State) (status : Byte) : Flow :=
  match s.cfg.maxSpins with
  | none => .go s
  | some n =>
    let s' := { s with spins := s.spins + 1 }
    if n ≤ s'.spins then .raised (raise s' .spinLimit status.toNat) else .go s'

/-- One poll of UART STATUS (40_serialio.md R82): a ready status ends the wait and goes
on as `onReady` says; an unready one counts and goes on as `onWait` says. -/
def pollStatus (s : State) (status : Byte) (ready : Byte → Bool) (onReady onWait : State → State) :
    Flow :=
  let a := uartStatus s.cfg
  readThen s (addrTarget s.cfg a) a status fun v s' =>
    if ready v then .go (onReady s')
    else (spinCheck s' v).andThen fun s'' => .go (onWait s'')

end Sys2Proof.Machine
end

