-- ==== Sys2Proof/Machine/Bus.lean ====
section
/-! DEFINITION. The ADDR16 rows: one bus access at the address a row names (30_encoding.md R70,
20_memory.md R43, R44). The value a read returns is the last event of the history. -/

namespace Sys2Proof.Machine

/-- $F000 read: BankSwitch `read()` (41_bankswitch.md R89). -/
def execAddrBank0Read (s : State) : Out := (busAccess s .bank0 bank0Addr (.read 0)).toOut

/-- $F000 write: BankSwitch `write(page)` (41_bankswitch.md R90). -/
def execAddrBank0Write (page : Byte) (s : State) : Out :=
  (busAccess s .bank0 bank0Addr (.write page)).toOut

/-- $F0FF: a read is a draw, a write changes no block state (20_memory.md R44, R47). -/
def execAddrIntLatch (acc : Access) (s : State) : Out := (busAccess s .intLatch latchAddr acc).toOut

/-- A byte of the NMI vector (20_memory.md R41). -/
def execAddrVecNmi (hi : Bool) (s : State) : Out :=
  (busAccess s .vector (vectorAddr nmiVector hi) (.read 0)).toOut

/-- A byte of the reset vector (20_memory.md R41). -/
def execAddrVecReset (hi : Bool) (s : State) : Out :=
  (busAccess s .vector (vectorAddr resetVector hi) (.read 0)).toOut

/-- A byte of the IRQ vector (20_memory.md R41). -/
def execAddrVecIrq (hi : Bool) (s : State) : Out :=
  (busAccess s .vector (vectorAddr irqVector hi) (.read 0)).toOut

/-- A byte of jump-table slot k (20_memory.md R48). -/
def slotRead (k : Nat) (hi : Bool) (s : State) : Flow :=
  busAccess s .table (slotAddr s.cfg k hi) (.read 0)

/-- Slot 0, the guard, whose bytes are unspecified image constants (R48). -/
def execAddrJtSlot0 (hi : Bool) (s : State) : Out := (slotRead 0 hi s).toOut

/-- Slot 1, `JT[1]` (R48). -/
def execAddrJtSlot1 (hi : Bool) (s : State) : Out := (slotRead 1 hi s).toOut

/-- Slot 2, `JT[2]` (R48). -/
def execAddrJtSlot2 (hi : Bool) (s : State) : Out := (slotRead 2 hi s).toOut

/-- Slot 3, `JT[3]` (R48). -/
def execAddrJtSlot3 (hi : Bool) (s : State) : Out := (slotRead 3 hi s).toOut

/-- Slot 4, `JT[4]` (R48). -/
def execAddrJtSlot4 (hi : Bool) (s : State) : Out := (slotRead 4 hi s).toOut

/-- Slot 5, `JT[5]` (R48). -/
def execAddrJtSlot5 (hi : Bool) (s : State) : Out := (slotRead 5 hi s).toOut

/-- Slot 6, `JT[6]` (R48). -/
def execAddrJtSlot6 (hi : Bool) (s : State) : Out := (slotRead 6 hi s).toOut

/-- UART DATA read, `receiveByte`'s data read (40_serialio.md R84, R86). -/
def execAddrUartDataRead (draw : Byte) (s : State) : Out :=
  (busAccess s .uart (uartData s.cfg) (.read draw)).toOut

/-- UART DATA write, `transmitByte`'s data write (40_serialio.md R83, R86). -/
def execAddrUartDataWrite (b : Byte) (s : State) : Out :=
  (busAccess s .uart (uartData s.cfg) (.write b)).toOut

/-- UART STATUS (20_memory.md R43, R50; a write: log 17). -/
def execAddrUartStatus (acc : Access) (s : State) : Out :=
  (busAccess s .uart (uartStatus s.cfg) acc).toOut

/-- UART CMD: a write is `configure(controlWord)` (40_serialio.md R85), a read a draw (R43). -/
def execAddrUartCmd (acc : Access) (s : State) : Out :=
  (busAccess s .uart (uartCmd s.cfg) acc).toOut

/-- UART CTRL (20_memory.md R43, R44, R50). -/
def execAddrUartCtrl (acc : Access) (s : State) : Out :=
  (busAccess s .uart (uartCtrl s.cfg) acc).toOut

/-- The banked window (20_memory.md R45). -/
def execAddrWindow (a : Addr) (acc : Access) (s : State) : Out := (busAccess s .window a acc).toOut

end Sys2Proof.Machine
end

