-- ==== Sys2Proof/Machine/Dispatching.lean ====
section
/-! DEFINITION. Source identification and the jump-table dispatch (43_dispatch.md R105 to R111), and
the meanings of the latch bytes (30_encoding.md R68, R69). -/

namespace Sys2Proof.Machine

/-- DSP_BRK_CHECK (R105). -/
def execDspBrkCheck (s : State) : Out :=
  (withTop s fun f _ =>
    if breakFlag s.cfg f then
      .go { s.emit .brkUnimplemented with brkUnimpl := true, phase := phRstBankWrite }
    else .go { s with phase := phDspLatchRead }).toOut

/-- A latch value of a source: kept as `off`, on to the table fetch (R106). -/
def latchAccept (v : Byte) (s : State) : Flow := .go { s with off := v, phase := phDspTableLo }

/-- A latch value of no source: UNMAPPED_SOURCE, info the value (R106, 60_exceptions.md R132). -/
def latchUnmapped (v : Byte) (s : State) : Flow := .raised (raise s .unmappedSource v.toNat)

/-- DSP_LATCH_READ (R106): INT_LATCH read once, with the draw `latch`, then the bounds check. -/
def execDspLatchRead (latch : Byte) (s : State) : Out :=
  (readThen s .intLatch latchAddr latch fun v s' =>
    if latchValid v then latchAccept v s' else latchUnmapped v s').toOut

/-- DSP_TABLE_LO (R108). With `off` valid the address is in the table; a draw is used only where no
run reaches (log 15). -/
def execDspTableLo (s : State) : Out :=
  let a := tableLoAddr s.cfg s.off
  (readThen s (addrTarget s.cfg a) a (Config.freeByte s.drawCount 0) fun v s' =>
    .go { s' with lo := v, phase := phDspTableHi }).toOut

/-- DSP_TABLE_HI (R109). -/
def execDspTableHi (s : State) : Out :=
  let a := tableHiAddr s.cfg s.off
  (readThen s (addrTarget s.cfg a) a (Config.freeByte s.drawCount 0) fun v s' =>
    .go { s' with hi := v, phase := phDspJump }).toOut

/-- DSP_JUMP (R111): `rx` becomes unspecified, a free value (log 12). -/
def execDspJump (s : State) : Out :=
  .next { s with pc := word16 s.hi s.lo, spins := 0, rx := Config.freeByte s.drawCount 1,
                 phase := handlerWord (handlerIndex s.off) 0 }

/-- Latch $02: source 1, FDC channel 0 data request (R68). -/
def execLatch02Fdc0Drq (s : State) : Out := (latchAccept 0x02 s).toOut

/-- Latch $04: source 2, FDC channel 1 data request (R68). -/
def execLatch04Fdc1Drq (s : State) : Out := (latchAccept 0x04 s).toOut

/-- Latch $06: source 3, FDC channel 0 IRQ (R68). -/
def execLatch06Fdc0Irq (s : State) : Out := (latchAccept 0x06 s).toOut

/-- Latch $08: source 4, FDC channel 1 IRQ (R68). -/
def execLatch08Fdc1Irq (s : State) : Out := (latchAccept 0x08 s).toOut

/-- Latch $0A: source 5, serial 0 IRQ (R68). -/
def execLatch0ASer0Irq (s : State) : Out := (latchAccept 0x0A s).toOut

/-- Latch $0C: source 6, serial 1 IRQ (R68). -/
def execLatch0CSer1Irq (s : State) : Out := (latchAccept 0x0C s).toOut

/-- Latch $00: the guard slot (R69). -/
def execLatchReservedGuard (s : State) : Out := (latchUnmapped 0x00 s).toOut

/-- An odd latch value (R69). -/
def execLatchReservedOdd (hi : BitVec 7) (s : State) : Out := (latchUnmapped (hi ++ 1#1) s).toOut

/-- Latch $0E, one past the populated table (R69). -/
def execLatchReserved0E (s : State) : Out := (latchUnmapped 0x0E s).toOut

/-- Latch $10 to $1E, even (R69). -/
def execLatchReserved10To1E (n : BitVec 3) (s : State) : Out :=
  (latchUnmapped (0x1#4 ++ n ++ 0#1) s).toOut

/-- Latch $20 to $3E, even (R69). -/
def execLatchReserved20To3E (n : BitVec 4) (s : State) : Out :=
  (latchUnmapped (0x1#3 ++ n ++ 0#1) s).toOut

/-- Latch $40 to $7E, even (R69). -/
def execLatchReserved40To7E (n : BitVec 5) (s : State) : Out :=
  (latchUnmapped (0x1#2 ++ n ++ 0#1) s).toOut

/-- Latch $80 to $FE, even (R69). -/
def execLatchReserved80ToFE (n : BitVec 6) (s : State) : Out :=
  (latchUnmapped (0x1#1 ++ n ++ 0#1) s).toOut

end Sys2Proof.Machine
end

