-- ==== Sys2Proof/Machine/Entering.lean ====
section
/-! DEFINITION. The four Entering micro-steps (42_entry.md R100 to R103). -/

namespace Sys2Proof.Machine

/-- ENT_SAVE (R100). -/
def execEntSave (s : State) : Out :=
  (withTop s fun f rest =>
    let f' : Frame :=
      { f with a := s.a, x := s.x, y := s.y,
               sp := if s.cfg.kstack then s.sp else f.sp,
               ssel := if s.cfg.kstack then s.ssel else f.ssel }
    .go { s with frames := f' :: rest, phase := phEntBankRead }).toOut

/-- ENT_BANK_READ (R101). -/
def execEntBankRead (s : State) : Out :=
  (withTop s fun f rest =>
    readThen s .bank0 bank0Addr 0 fun v s' =>
      .go { s' with frames := { f with bank := v } :: rest,
                    phase := if s.cfg.kstack then phEntKstackSwitch else phEntBankForce }).toOut

/-- ENT_KSTACK_SWITCH (R102); refused without KSTACK (30_encoding.md R66; log 16). -/
def execEntKstackSwitch (s : State) : Out :=
  if s.cfg.kstack then
    .next { s with sp := if s.ssel = .user then s.cfg.kstackTop else s.sp, ssel := .kernel,
                   phase := phEntBankForce }
  else .refused .kstackAbsent

/-- ENT_BANK_FORCE (R103). -/
def execEntBankForce (s : State) : Out :=
  ((busWrite s .bank0 bank0Addr 0x00).andThen fun s' =>
    .go { s' with phase := phDspBrkCheck }).toOut

end Sys2Proof.Machine
end

