-- ==== Sys2Proof/Machine/Handlers.lean ====
section
/-! DEFINITION. The six device handlers (44_handlers.md R113 to R123). -/

namespace Sys2Proof.Machine

/-- The shared exit of every handler: `x[PC] ← RESTORE_ENTRY; phase ← RST_BANK_WRITE` (R114). -/
def handlerExit (s : State) : State :=
  { s with pc := s.cfg.restoreEntry, phase := phRstBankWrite }

/-- HANDLER(1,0), FDC channel 0 data request: the sector counter, with SECTOR (R115). -/
def execHandler10Fdc0Drq (s : State) : Out :=
  .next (handlerExit { s with sectorPtr := if s.cfg.sector then s.sectorPtr + 1 else s.sectorPtr })

/-- HANDLER(2,0), FDC channel 1 data request: no-op (R116). -/
def execHandler20Fdc1Drq (s : State) : Out := .next (handlerExit s)

/-- HANDLER(3,0), FDC channel 0 IRQ: no-op (R117). -/
def execHandler30Fdc0Irq (s : State) : Out := .next (handlerExit s)

/-- HANDLER(4,0), FDC channel 1 IRQ: no-op (R118). -/
def execHandler40Fdc1Irq (s : State) : Out := .next (handlerExit s)

/-- HANDLER(5,0), serial 0 receive poll, STATUS drawn as `status` (R119). -/
def execHandler50Ser0RxPoll (status : Byte) (s : State) : Out :=
  (pollStatus s status rxFull (fun t => { t with spins := 0, phase := handlerWord 5 1 })
    (fun t => { t with phase := handlerWord 5 0 })).toOut

/-- HANDLER(5,1), serial 0 receive read, DATA drawn as `data` (R120). -/
def execHandler51Ser0RxRead (data : Byte) (s : State) : Out :=
  let a := uartData s.cfg
  (readThen s (addrTarget s.cfg a) a data fun v s' =>
    .go { s' with rx := v, phase := handlerWord 5 2 }).toOut

/-- HANDLER(5,2), serial 0 transmit poll, STATUS drawn as `status` (R121). -/
def execHandler52Ser0TxPoll (status : Byte) (s : State) : Out :=
  (pollStatus s status txEmpty (fun t => { t with spins := 0, phase := handlerWord 5 3 })
    (fun t => { t with phase := handlerWord 5 2 })).toOut

/-- HANDLER(5,3), serial 0 transmit write (R122). -/
def execHandler53Ser0TxWrite (s : State) : Out :=
  ((memWrite s (uartData s.cfg) s.rx).andThen fun s' => .go (handlerExit s')).toOut

/-- HANDLER(6,0), serial 1 IRQ: no-op (R123). -/
def execHandler60Ser1 (s : State) : Out := .next (handlerExit s)

end Sys2Proof.Machine
end

