-- ==== Sys2Proof/Machine/Program.lean ====
section
/-! DEFINITION. The interrupted program's steps (10_state.md R16): the program operations of
30_encoding.md R78, sequences of program steps (41_bankswitch.md R91) and the meaning of the IDLE
phase word. -/

namespace Sys2Proof.Machine

/-- BankSwitch `read()` (41_bankswitch.md R89), with what is done with the value. -/
def bankSwitchRead (s : State) (k : Byte → State → Flow) : Flow := readThen s .bank0 bank0Addr 0 k

/-- BankSwitch `write(page)` (41_bankswitch.md R90). -/
def bankSwitchWrite (s : State) (page : Byte) : Flow := busWrite s .bank0 bank0Addr page

/-- The start of a wait: `spins ← 0` where MAX_SPINS = some n; without a limit a wait writes no block
state (40_serialio.md R83, R87). -/
def startWait (s : State) : State :=
  { s with spins := if s.cfg.maxSpins = none then s.spins else 0 }

/-- One program operation (R78; the polls: 40_serialio.md R83, R84, R87). -/
def runOp (s : State) (op : ProgOp) : Flow :=
  match op with
  | .setA v => .go { s with a := v }
  | .setX v => .go { s with x := v }
  | .setY v => .go { s with y := v }
  | .setP v => .go { s with p := v }
  | .setSP v => .go { s with sp := v % 2 ^ s.cfg.spW }
  | .setPC v => .go { s with pc := v }
  | .bankWr v => bankSwitchWrite s v
  | .bankRd => bankSwitchRead s fun v s' => .go { s' with a := v }
  | .cli => .go { s with imask := false }
  | .sei => .go { s with imask := true }
  | .rd a v => busAccess s (addrTarget s.cfg a) a (.read v)
  | .wr a v => busAccess s (addrTarget s.cfg a) a (.write v)
  | .beginWait => .go (startWait s)
  | .pollRx v => pollStatus s v rxFull id id
  | .pollTx v => pollStatus s v txEmpty id id

/-- The operations of a program step, in order (R78), as far as a fault or refusal lets them run. -/
def runOps (ops : List ProgOp) (s : State) : Flow :=
  match ops with
  | [] => .go s
  | op :: rest => (runOp s op).andThen (runOps rest)

/-- One program step: its operations, or a precise fault (R78, 60_exceptions.md R131). -/
def opsStep (ops : List ProgOp) (s : State) : Flow := precise s (runOps ops s)

/-- One sequence of program steps and then another. -/
def seqThen (first second : ProgSeq) : ProgSeq :=
  match first with
  | .done => second
  | .step ops rest => .step ops (seqThen rest second)
  | .withBank0 action rest => .withBank0 action (seqThen rest second)

/-- The first step of `withBank0(action)`, followed by `rest` (41_bankswitch.md R91): `read()`. Its
other steps are then pending: `write($00)`, the action's, and `write(saved)`. -/
def beginWithBank0 (action rest : ProgSeq) (s : State) : Flow :=
  bankSwitchRead s fun saved s' =>
    .go { s' with
      pending := .step [.bankWr 0x00] (seqThen action (.step [.bankWr saved] rest)) }

/-- The first step of a sequence of program steps; the others are pending after it (log 19). -/
def seqStep (seq : ProgSeq) (s : State) : Flow :=
  match seq with
  | .done => .go s
  | .step ops rest => precise s (runOps ops { s with pending := rest })
  | .withBank0 action rest => beginWithBank0 action rest s

/-- IDLE (phase 0x0): one step of the interrupted program (10_state.md R16). -/
def execIdle (ops : List ProgOp) (s : State) : Out := (opsStep ops s).toOut

/-- A program step where one is enabled: phase = IDLE and no fault (R35). Elsewhere the event does
not occur and nothing changes (log 5). A program inside a `withBank0` takes the pending step of that
first, and the line's own step `own` comes later: the line is put back as `again` (log 19). -/
def programStep (again : List Line) (own : State → Flow) (s : State) : Out :=
  match stopped s with
  | some c => .fault c
  | none =>
    if s.phase = phIdle then
      if s.pending = .done then (own s).toOut
      else (seqStep s.pending { s with script := again ++ s.script }).toOut
    else .next s

end Sys2Proof.Machine
end

