-- ==== Sys2Proof/Machine/Restoring.lean ====
section
/-! DEFINITION. The four Restoring micro-steps (45_restore.md R126 to R129) and the FAULT phase words
(60_exceptions.md R131). -/

namespace Sys2Proof.Machine

/-- RST_BANK_WRITE (R126). -/
def execRstBankWrite (s : State) : Out :=
  (withTop s fun f _ =>
    (busWrite s .bank0 bank0Addr f.bank).andThen fun s' =>
      .go { s' with phase := if s.cfg.kstack then phRstKstackRestore else phRstPop }).toOut

/-- RST_KSTACK_RESTORE (R127); refused without KSTACK (30_encoding.md R66; log 16). -/
def execRstKstackRestore (s : State) : Out :=
  if s.cfg.kstack then
    (withTop s fun f _ => .go { s with sp := f.sp, ssel := f.ssel, phase := phRstPop }).toOut
  else .refused .kstackAbsent

/-- RST_POP (R128). -/
def execRstPop (s : State) : Out :=
  (withTop s fun f _ => .go { s with a := f.a, x := f.x, y := f.y, phase := phRstRti }).toOut

/-- RST_RTI (R129). -/
def execRstRti (s : State) : Out :=
  (withTop s fun f rest => .go (returnFromInterrupt s f rest)).toOut

/-- FAULT(1): the run has ended; no step is enabled (R131, R132; log 6). -/
def execFaultUnmappedSource (_ : State) : Out := .fault .unmappedSource

/-- FAULT(2): the run has ended; no step is enabled (R131, R133; log 6). -/
def execFaultStackOverflow (_ : State) : Out := .fault .stackOverflow

/-- FAULT(3): the run has ended; no step is enabled (R131, R134; log 6). -/
def execFaultBankUnwritten (_ : State) : Out := .fault .bankUnwritten

/-- FAULT(4): the run has ended; no step is enabled (R131, R135; log 6). -/
def execFaultSpinLimit (_ : State) : Out := .fault .spinLimit

end Sys2Proof.Machine
end

