-- ==== Sys2Proof/Machine/Events.lean ====
section
/-! DEFINITION. The events that drive a step (30_encoding.md R67): program step, reset, IRQ and SWI
acceptance, NMI, and the dispatcher micro-step that the phase word selects. -/

namespace Sys2Proof.Machine

/-- Event 0, PROG (10_state.md R16, R35). A line with no operations is one step of the program as it
stands: the pending step of a `withBank0`, if there is one (log 19). -/
def execEvProg (ops : List ProgOp) (s : State) : Out :=
  programStep (if ops = [] then [] else [.event 0 { ops := ops }]) (opsStep ops) s

/-- The reset event's effect (70_reset_and_hazards.md R154, 10_state.md R37). A draw the line does not
supply is a free value (30_encoding.md R78; log 13). The temporaries become unspecified, plain memory
a stable unknown again (20_memory.md R60; log 9, 12), and a `withBank0` the program was in is
abandoned with the program (log 19). -/
def resetState (d : ResetDraws) (s : State) : State :=
  let (entry, s') := fetchVector (s.emit .reset) resetVector
  { s' with
    frames := []
    phase := phIdle
    bank0 := s.cfg.bankReset
    imask := true
    brkUnimpl := false
    ssel := .user
    a := d.a.getD (Config.freeByte s.drawCount 5)
    x := d.x.getD (Config.freeByte s.drawCount 6)
    y := d.y.getD (Config.freeByte s.drawCount 7)
    p := d.p.getD (Config.freeByte s.drawCount 8)
    sp := d.sp.getD (Config.freeNat s.drawCount 9) % 2 ^ s.cfg.spW
    sectorPtr :=
      if s.cfg.sector then d.sector.getD (BitVec.ofNat 16 (Config.freeNat s.drawCount 10))
      else s.sectorPtr
    pc := entry
    off := Config.freeByte s.drawCount 0
    lo := Config.freeByte s.drawCount 1
    hi := Config.freeByte s.drawCount 2
    rx := Config.freeByte s.drawCount 3
    spins := Config.freeNat s.drawCount 4
    mem := []
    pending := .done }

/-- Event 1, RESET: enabled at every boundary with no fault (R154). -/
def execEvReset (d : ResetDraws) (s : State) : Out :=
  match stopped s with
  | some c => .fault c
  | none => .next (resetState d s)

/-- IRQ acceptance where it is enabled (42_entry.md R97, R98). -/
def irqFlow (s : State) : Flow := acceptOrOverflow s .irq (returnPosition s) false

/-- Event 2, IRQ (42_entry.md R97, R98). An IRQ that is not enabled does not occur (log 5). -/
def execEvIrq (s : State) : Out :=
  match stopped s with
  | some c => .fault c
  | none => if irqEnabled s then (irqFlow s).toOut else .next s

/-- Event 3, SWI (42_entry.md R99): at IDLE only, the mask not consulted. -/
def execEvSwi (s : State) : Out :=
  match stopped s with
  | some c => .fault c
  | none =>
    if s.phase = phIdle then (acceptOrOverflow s .swi (.prog s.pc) true).toOut else .next s

/-- Event 4, NMI (60_exceptions.md R137): its event and the two vector reads, no other change. -/
def execEvNmi (s : State) : Out :=
  match stopped s with
  | some c => .fault c
  | none => .next (fetchVector (s.emit .nmi) nmiVector).2

/-- The refusal a rejected code becomes. -/
def refusalOf (e : DecodeError) : Refusal :=
  match e with
  | .reservedPhaseWord w => .reservedPhaseWord w
  | .reservedEvent code => .reservedEvent code
  | .imageWrite a => .imageWrite a
  | .plainMemory a => .noRow a

/-- The micro-step of a decoded phase word (30_encoding.md R65). The other rows are no phase words;
`decodePhase` answers none of them. -/
def microStep (i : Instr) (s : State) : Out :=
  match i with
  | .idle ops => execIdle ops s
  | .entSave => execEntSave s
  | .entBankRead => execEntBankRead s
  | .entKstackSwitch => execEntKstackSwitch s
  | .entBankForce => execEntBankForce s
  | .dspBrkCheck => execDspBrkCheck s
  | .dspLatchRead latch => execDspLatchRead latch s
  | .dspTableLo => execDspTableLo s
  | .dspTableHi => execDspTableHi s
  | .dspJump => execDspJump s
  | .handler10Fdc0Drq => execHandler10Fdc0Drq s
  | .handler20Fdc1Drq => execHandler20Fdc1Drq s
  | .handler30Fdc0Irq => execHandler30Fdc0Irq s
  | .handler40Fdc1Irq => execHandler40Fdc1Irq s
  | .handler50Ser0RxPoll status => execHandler50Ser0RxPoll status s
  | .handler51Ser0RxRead data => execHandler51Ser0RxRead data s
  | .handler52Ser0TxPoll status => execHandler52Ser0TxPoll status s
  | .handler53Ser0TxWrite => execHandler53Ser0TxWrite s
  | .handler60Ser1 => execHandler60Ser1 s
  | .rstBankWrite => execRstBankWrite s
  | .rstKstackRestore => execRstKstackRestore s
  | .rstPop => execRstPop s
  | .rstRti => execRstRti s
  | .faultUnmappedSource => execFaultUnmappedSource s
  | .faultStackOverflow => execFaultStackOverflow s
  | .faultBankUnwritten => execFaultBankUnwritten s
  | .faultSpinLimit => execFaultSpinLimit s
  | .evProg _ | .evReset _ | .evIrq | .evSwi | .evNmi | .evStep _ _
  | .latch02Fdc0Drq | .latch04Fdc1Drq | .latch06Fdc0Irq | .latch08Fdc1Irq | .latch0ASer0Irq
  | .latch0CSer1Irq | .latchReservedGuard | .latchReservedOdd _ | .latchReserved0E
  | .latchReserved10To1E _ | .latchReserved20To3E _ | .latchReserved40To7E _
  | .latchReserved80ToFE _
  | .addrBank0Read | .addrBank0Write _ | .addrIntLatch _ | .addrVecNmi _ | .addrVecReset _
  | .addrVecIrq _ | .addrJtSlot0 _ | .addrJtSlot1 _ | .addrJtSlot2 _ | .addrJtSlot3 _
  | .addrJtSlot4 _ | .addrJtSlot5 _ | .addrJtSlot6 _ | .addrUartDataRead _
  | .addrUartDataWrite _ | .addrUartStatus _ | .addrUartCmd _ | .addrUartCtrl _
  | .addrWindow _ _
  | .pseudoWithBank0 _ | .pseudoActivation _ | .pseudoCli | .pseudoSei =>
    .refused (.reservedPhaseWord s.phase)

/-- The values presented to a micro-step: the first unused draws of the line, a free value where it
supplies none (log 13). -/
def stepVals (d : Draws) (s : State) : StepVals where
  ops := []
  latch := d.latch.headD (Config.freeByte s.drawCount 10)
  status := d.status.headD (Config.freeByte s.drawCount 11)
  data := d.data.headD (Config.freeByte s.drawCount 12)

/-- The draws left after a micro-step in a phase: each poll, the latch read and the data read use
one (30_encoding.md R78). -/
def drawsAfter (d : Draws) (w : PhaseWord) : Draws :=
  if w = phDspLatchRead then { d with latch := d.latch.tail }
  else if w = handlerWord 5 0 || w = handlerWord 5 2 then { d with status := d.status.tail }
  else if w = handlerWord 5 1 then { d with data := d.data.tail }
  else d

/-- The step in this phase needs a draw that the line does not hold (R78). -/
def drawMissing (d : Draws) (w : PhaseWord) : Bool :=
  if w = phDspLatchRead then d.latch.isEmpty
  else if w = handlerWord 5 0 || w = handlerWord 5 2 then d.status.isEmpty
  else if w = handlerWord 5 1 then d.data.isEmpty
  else false

/-- One dispatcher micro-step: the phase word decoded (30_encoding.md R66) and its rule taken. -/
def dispatchStep (d : Draws) (s : State) : Out :=
  match decodePhase s.phase (stepVals d s) with
  | .ok i => microStep i s
  | .error e => .refused (refusalOf e)

/-- After a micro-step of a repeated line: put the line back, with the draws it has left, unless the
repetition stops (R78): an RST_RTI ran (`w`), or the phase is IDLE or FAULT. -/
def requeue (mode : StepMode) (d : Draws) (w : PhaseWord) (s : State) : State :=
  if w = phRstRti || s.phase = phIdle || (stopped s).isSome then s
  else { s with script := .event 5 { mode := mode, draws := drawsAfter d w } :: s.script }

/-- Event 5, STEP (R35, R66). At IDLE no micro-step is enabled and nothing changes (log 5). A `run`
ends where the next step needs a draw it does not hold; an activation's draws are free there. -/
def execEvStep (mode : StepMode) (d : Draws) (s : State) : Out :=
  match stopped s with
  | some c => .fault c
  | none =>
    if s.phase = phIdle then .next s
    else
      match mode with
      | .once => dispatchStep d s
      | .run =>
        if drawMissing d s.phase then .next s
        else
          match dispatchStep d s with
          | .next s' => .next (requeue .run d s.phase s')
          | o => o
      | .activation =>
        match dispatchStep d s with
        | .next s' => .next (requeue .activation d s.phase s')
        | o => o

end Sys2Proof.Machine
end

