-- ==== Sys2Proof/Machine/Pseudo.lean ====
section
/-! DEFINITION. The pseudo-operations of 30_encoding.md R79: names of fixed sequences. -/

namespace Sys2Proof.Machine

/-- `withBank0(action)` (R79, 41_bankswitch.md R91): its first step now, the others pending, one
program step each, so that an event may fall between any two of them (R95; log 19). -/
def execPseudoWithBank0 (action : ProgSeq) (s : State) : Out :=
  programStep [.pseudo .withBank0 { action := action }] (seqStep (.withBank0 action .done)) s

/-- `activation` (R79): the IRQ acceptance now, and then the micro-steps of its run, one step each,
until its frame is popped (log 20). -/
def execPseudoActivation (d : Draws) (s : State) : Out :=
  match stopped s with
  | some c => .fault c
  | none =>
    if irqEnabled s then
      match irqFlow s with
      | .go s' => .next { s' with script := .event 5 { mode := .activation, draws := d } :: s'.script }
      | f => f.toOut
    else .next s

/-- `cli`: imask ← 0 as a program step (R78, R79). -/
def execPseudoCli (s : State) : Out :=
  programStep [.pseudo .cli {}] (fun t => .go { t with imask := false }) s

/-- `sei`: imask ← 1 as a program step (R78, R79). -/
def execPseudoSei (s : State) : Out :=
  programStep [.pseudo .sei {}] (fun t => .go { t with imask := true }) s

end Sys2Proof.Machine
end

