-- ==== Sys2Proof/Machine/Fetch.lean ====
section
/-! DEFINITION. Where the machine gets its next event: the head of the environment's script, or a free
line past its end (10_state.md R35; log 4); and placing a code so that the next step runs it. -/

namespace Sys2Proof.Machine

/-- The next line and the state with it taken. -/
def nextLine (s : State) : Line × State :=
  match s.script with
  | [] => (Config.freeLine s.drawCount, { s with drawCount := s.drawCount + 1 })
  | l :: rest => (l, { s with script := rest, drawCount := s.drawCount + 1 })

/-- An activation's frame for a phase word placed with no activation under way: the program's
position and registers as they stand (log 23). -/
def placedFrame (s : State) : Frame where
  ret := .prog s.pc
  p := s.p
  brk := false
  a := s.a
  x := s.x
  y := s.y
  bank := s.bank0.getD 0
  sp := s.sp
  ssel := s.ssel

/-- A phase word in the phase register, a frame if it needs one, and the event that steps it. -/
def placePhase (w : PhaseWord) (v : StepVals) (s : State) : State :=
  if w = phIdle then { s with phase := w, pending := .done, script := [.event 0 { ops := v.ops }] }
  else
    { s with phase := w,
             frames := if s.frames.isEmpty then [placedFrame s] else s.frames,
             script := [.event 5 { draws := { latch := [v.latch], status := [v.status],
                                              data := [v.data] } }] }

/-- A code placed where the next step meets it: a line at the script's head, a phase word in the phase
register, a latch byte presented to DSP_LATCH_READ, a bus access as the program's step (log 23). -/
def placeCode (c : Code) (s : State) : State :=
  match c with
  | .line l => { s with pending := .done, script := [l] }
  | .phase w v => placePhase w v s
  | .latch v => placePhase phDspLatchRead { latch := v } s
  | .bus a (.read d) => placePhase phIdle { ops := [.rd a d] } s
  | .bus a (.write v) => placePhase phIdle { ops := [.wr a v] } s

/-- The code of an opcode-table word placed for the next step; a word of no format changes nothing. -/
def placeWord (nbits w : Nat) (s : State) : State :=
  match tableCode nbits w with
  | some c => placeCode c s
  | none => s

end Sys2Proof.Machine
end

