-- ==== Sys2Proof/Machine/Boot.lean ====
section
/-! DEFINITION. The program code the spec describes as script lines: the SerialIO primitives
(40_serialio.md R83 to R85), zero-fill and the two boot sequences (70_reset_and_hazards.md R156 to
R158), the polled echo loop (40_serialio.md R88), and a `withBank0` with no event inside
(30_encoding.md R79). -/

namespace Sys2Proof.Machine

/-- One program step as a line. -/
def progLine (ops : List ProgOp) : Line := .event 0 { ops := ops }

/-- The polls of one wait, up to the first ready status. -/
def pollsUntil (ready : Byte → Bool) (statuses : List Byte) : List Byte :=
  match statuses with
  | [] => []
  | v :: rest => if ready v then [v] else v :: pollsUntil ready rest

/-- The lines of one wait, one poll a step (40_serialio.md R82); the first starts the count at 0
(R87). -/
def waitLines (poll : Byte → ProgOp) (statuses : List Byte) : List Line :=
  match statuses with
  | [] => []
  | v :: rest => progLine [.beginWait, poll v] :: rest.map fun w => progLine [poll w]

/-- `receiveByte()` with these STATUS draws and DATA draw (40_serialio.md R84). -/
def receiveByteLines (cfg : Cfg) (statuses : List Byte) (data : Byte) : List Line :=
  waitLines .pollRx (pollsUntil rxFull statuses) ++
    if statuses.any rxFull then [progLine [.rd (uartData cfg) data]] else []

/-- `transmitByte(b)` with these STATUS draws (40_serialio.md R83). -/
def transmitByteLines (cfg : Cfg) (statuses : List Byte) (b : Byte) : List Line :=
  waitLines .pollTx (pollsUntil txEmpty statuses) ++
    if statuses.any txEmpty then [progLine [.wr (uartData cfg) b]] else []

/-- `configure(controlWord)` (40_serialio.md R85). -/
def configureOps (cfg : Cfg) (w : Byte) : List ProgOp := [.wr (uartCmd cfg) w]

/-- Zero-fill (70_reset_and_hazards.md R156): ZF_LEN writes of 0 from ZF_BASE, addresses rising. -/
def zeroFillOps (cfg : Cfg) : List ProgOp :=
  (List.range cfg.zfLen).map fun i => .wr (cfg.zfBase + BitVec.ofNat 16 i) 0x00

/-- Some byte of the zero-fill range lies in the window (R157). -/
def zeroFillInWindow (cfg : Cfg) : Bool :=
  (List.range cfg.zfLen).any fun i => inWindow cfg (cfg.zfBase + BitVec.ofNat 16 i)

/-- Zero-fill as a line, with BANK0 written first where the range is in the window (R156, R157). -/
def zeroFillLine (cfg : Cfg) (fillBank : Byte) : Line :=
  progLine ((if zeroFillInWindow cfg then [.bankWr fillBank] else []) ++ zeroFillOps cfg)

/-- The boot sequence up to the idle loop, or up to the echo loop (70_reset_and_hazards.md R157,
R158); `bank` is the bank the program then runs in (log 25). -/
def bootLines (cfg : Cfg) (fillBank bank : Byte) : List Line :=
  match cfg.bootMode with
  | .irqDriven =>
    [zeroFillLine cfg fillBank, progLine (configureOps cfg cfg.cmdIrq), progLine [.bankWr bank],
     progLine [.cli]]
  | .polledEcho => [zeroFillLine cfg fillBank, progLine (configureOps cfg cfg.cmdPolled)]

/-- What the device answers in one round of the polled echo loop: the STATUS draws of the receive wait,
the DATA draw, and the STATUS draws of the transmit wait. -/
structure EchoRound where
  rxStatuses : List Byte
  data       : Byte
  txStatuses : List Byte
  deriving DecidableEq, Repr

/-- `receiveByte()` returns in this round. -/
def EchoRound.received (r : EchoRound) : Bool := r.rxStatuses.any rxFull

/-- The round ends: both waits do. -/
def EchoRound.ends (r : EchoRound) : Bool := r.received && r.txStatuses.any txEmpty

/-- One round of the polled echo loop (40_serialio.md R88): `r ← receiveByte(); transmitByte(r)`. A
receive wait that does not end sends nothing. -/
def echoRoundLines (cfg : Cfg) (r : EchoRound) : List Line :=
  receiveByteLines cfg r.rxStatuses r.data ++
    if r.received then transmitByteLines cfg r.txStatuses r.data else []

/-- The polled echo loop (40_serialio.md R88) as far as these rounds of device answers take it:
`goto loop` begins the next round when one has ended, and a wait that does not end is the last. -/
def echoLines (cfg : Cfg) (rounds : List EchoRound) : List Line :=
  match rounds with
  | [] => []
  | r :: rest => echoRoundLines cfg r ++ if r.ends then echoLines cfg rest else []

/-- The first `n` rounds of the loop's endless run, round `k` answered by `answers k` (R88, R158). -/
def echoForever (cfg : Cfg) (answers : Nat → EchoRound) (n : Nat) : List Line :=
  echoLines cfg ((List.range n).map answers)

/-- The boot sequence and what the program then does: the idle loop's steps are empty `prog` lines, the
echo loop takes the device's answers (70_reset_and_hazards.md R157, R158). -/
def bootProgramLines (cfg : Cfg) (fillBank bank : Byte) (idleSteps : Nat) (rounds : List EchoRound) :
    List Line :=
  bootLines cfg fillBank bank ++
    match cfg.bootMode with
    | .irqDriven => List.replicate idleSteps (progLine [])
    | .polledEcho => echoLines cfg rounds

/-- How many program steps a sequence takes (R91: a `withBank0` adds a read and two writes). -/
def seqLength (seq : ProgSeq) : Nat :=
  match seq with
  | .done => 0
  | .step _ rest => seqLength rest + 1
  | .withBank0 action rest => seqLength action + seqLength rest + 3

/-- `withBank0(action)` with no event between its steps (30_encoding.md R79): its line, and a `prog` line
for each step after the first. -/
def withBank0Lines (action : ProgSeq) : List Line :=
  .pseudo .withBank0 { action := action } :: List.replicate (seqLength action + 2) (progLine [])

end Sys2Proof.Machine
end

