-- ==== Sys2Proof/Machine/Dispatch.lean ====
section
/-! DEFINITION. One meaning per operation: each constructor of `Instr` to its own definition. -/

namespace Sys2Proof.Machine

/-- The meaning of an operation. -/
def exec (i : Instr) (s : State) : Host.Outcome State Fault Refusal :=
  match i with
  -- PW9
  | .idle ops => Sys2Proof.Machine.execIdle ops s
  | .entSave => Sys2Proof.Machine.execEntSave s
  | .entBankRead => Sys2Proof.Machine.execEntBankRead s
  | .entKstackSwitch => Sys2Proof.Machine.execEntKstackSwitch s
  | .entBankForce => Sys2Proof.Machine.execEntBankForce s
  | .dspBrkCheck => Sys2Proof.Machine.execDspBrkCheck s
  | .dspLatchRead latch => Sys2Proof.Machine.execDspLatchRead latch s
  | .dspTableLo => Sys2Proof.Machine.execDspTableLo s
  | .dspTableHi => Sys2Proof.Machine.execDspTableHi s
  | .dspJump => Sys2Proof.Machine.execDspJump s
  | .handler10Fdc0Drq => Sys2Proof.Machine.execHandler10Fdc0Drq s
  | .handler20Fdc1Drq => Sys2Proof.Machine.execHandler20Fdc1Drq s
  | .handler30Fdc0Irq => Sys2Proof.Machine.execHandler30Fdc0Irq s
  | .handler40Fdc1Irq => Sys2Proof.Machine.execHandler40Fdc1Irq s
  | .handler50Ser0RxPoll status => Sys2Proof.Machine.execHandler50Ser0RxPoll status s
  | .handler51Ser0RxRead data => Sys2Proof.Machine.execHandler51Ser0RxRead data s
  | .handler52Ser0TxPoll status => Sys2Proof.Machine.execHandler52Ser0TxPoll status s
  | .handler53Ser0TxWrite => Sys2Proof.Machine.execHandler53Ser0TxWrite s
  | .handler60Ser1 => Sys2Proof.Machine.execHandler60Ser1 s
  | .rstBankWrite => Sys2Proof.Machine.execRstBankWrite s
  | .rstKstackRestore => Sys2Proof.Machine.execRstKstackRestore s
  | .rstPop => Sys2Proof.Machine.execRstPop s
  | .rstRti => Sys2Proof.Machine.execRstRti s
  | .faultUnmappedSource => Sys2Proof.Machine.execFaultUnmappedSource s
  | .faultStackOverflow => Sys2Proof.Machine.execFaultStackOverflow s
  | .faultBankUnwritten => Sys2Proof.Machine.execFaultBankUnwritten s
  | .faultSpinLimit => Sys2Proof.Machine.execFaultSpinLimit s
  -- EV3
  | .evProg ops => Sys2Proof.Machine.execEvProg ops s
  | .evReset d => Sys2Proof.Machine.execEvReset d s
  | .evIrq => Sys2Proof.Machine.execEvIrq s
  | .evSwi => Sys2Proof.Machine.execEvSwi s
  | .evNmi => Sys2Proof.Machine.execEvNmi s
  | .evStep mode d => Sys2Proof.Machine.execEvStep mode d s
  -- LATCH8
  | .latch02Fdc0Drq => Sys2Proof.Machine.execLatch02Fdc0Drq s
  | .latch04Fdc1Drq => Sys2Proof.Machine.execLatch04Fdc1Drq s
  | .latch06Fdc0Irq => Sys2Proof.Machine.execLatch06Fdc0Irq s
  | .latch08Fdc1Irq => Sys2Proof.Machine.execLatch08Fdc1Irq s
  | .latch0ASer0Irq => Sys2Proof.Machine.execLatch0ASer0Irq s
  | .latch0CSer1Irq => Sys2Proof.Machine.execLatch0CSer1Irq s
  | .latchReservedGuard => Sys2Proof.Machine.execLatchReservedGuard s
  | .latchReservedOdd hi => Sys2Proof.Machine.execLatchReservedOdd hi s
  | .latchReserved0E => Sys2Proof.Machine.execLatchReserved0E s
  | .latchReserved10To1E n => Sys2Proof.Machine.execLatchReserved10To1E n s
  | .latchReserved20To3E n => Sys2Proof.Machine.execLatchReserved20To3E n s
  | .latchReserved40To7E n => Sys2Proof.Machine.execLatchReserved40To7E n s
  | .latchReserved80ToFE n => Sys2Proof.Machine.execLatchReserved80ToFE n s
  -- ADDR16
  | .addrBank0Read => Sys2Proof.Machine.execAddrBank0Read s
  | .addrBank0Write page => Sys2Proof.Machine.execAddrBank0Write page s
  | .addrIntLatch acc => Sys2Proof.Machine.execAddrIntLatch acc s
  | .addrVecNmi hi => Sys2Proof.Machine.execAddrVecNmi hi s
  | .addrVecReset hi => Sys2Proof.Machine.execAddrVecReset hi s
  | .addrVecIrq hi => Sys2Proof.Machine.execAddrVecIrq hi s
  | .addrJtSlot0 hi => Sys2Proof.Machine.execAddrJtSlot0 hi s
  | .addrJtSlot1 hi => Sys2Proof.Machine.execAddrJtSlot1 hi s
  | .addrJtSlot2 hi => Sys2Proof.Machine.execAddrJtSlot2 hi s
  | .addrJtSlot3 hi => Sys2Proof.Machine.execAddrJtSlot3 hi s
  | .addrJtSlot4 hi => Sys2Proof.Machine.execAddrJtSlot4 hi s
  | .addrJtSlot5 hi => Sys2Proof.Machine.execAddrJtSlot5 hi s
  | .addrJtSlot6 hi => Sys2Proof.Machine.execAddrJtSlot6 hi s
  | .addrUartDataRead draw => Sys2Proof.Machine.execAddrUartDataRead draw s
  | .addrUartDataWrite b => Sys2Proof.Machine.execAddrUartDataWrite b s
  | .addrUartStatus acc => Sys2Proof.Machine.execAddrUartStatus acc s
  | .addrUartCmd acc => Sys2Proof.Machine.execAddrUartCmd acc s
  | .addrUartCtrl acc => Sys2Proof.Machine.execAddrUartCtrl acc s
  | .addrWindow a acc => Sys2Proof.Machine.execAddrWindow a acc s
  -- PSEUDO
  | .pseudoWithBank0 action => Sys2Proof.Machine.execPseudoWithBank0 action s
  | .pseudoActivation d => Sys2Proof.Machine.execPseudoActivation d s
  | .pseudoCli => Sys2Proof.Machine.execPseudoCli s
  | .pseudoSei => Sys2Proof.Machine.execPseudoSei s

end Sys2Proof.Machine
end

