-- ==== Sys2Proof/Machine/Step.lean ====
section
/-! DEFINITION. One step of the machine (10_state.md R35): the next line is taken, decoded and run. A
configuration that fails 00_scope.md R10 is refused. -/

namespace Sys2Proof.Machine

/-- One step. -/
def step (s : State) : Host.Outcome State Fault Refusal :=
  if admitted s.cfg then
    match decodeLine (nextLine s).1 with
    | .ok i => exec i (nextLine s).2
    | .error e => .refused (refusalOf e)
  else .refused .configurationRefused

/-- The state with an opcode-table word placed so that the next step runs it (log 23). -/
def State.withFetchWord (s : State) (nbits w : Nat) : State := placeWord nbits w s

end Sys2Proof.Machine
end

