-- ==== Sys2Proof/Safety.lean ====
section
/-! DEFINITION. The terms safety claims use: the invariants of 10_state.md R38 as a machine invariant,
the end of an activation (70_reset_and_hazards.md R174), and a run that stays inside one. -/

namespace Sys2Proof

open Sys2Proof.Machine

/-- The phases in which R38 (d) puts BANK0 at 0: DSP_BRK_CHECK to DSP_JUMP, the handlers, and
RST_BANK_WRITE before its write. -/
def bankForced (w : PhaseWord) : Bool :=
  isHandler w ||
    [phDspBrkCheck, phDspLatchRead, phDspTableLo, phDspTableHi, phDspJump, phRstBankWrite].contains w

/-- The phases of an outermost activation in which, with KSTACK, the kernel stack is active: past
ENT_KSTACK_SWITCH, and not past RST_KSTACK_RESTORE (R38 (c); log 27). -/
def kernelPhase (w : PhaseWord) : Bool :=
  bankForced w || [phEntBankForce, phRstKstackRestore].contains w

/-- The top frame's ENT_SAVE has been done. -/
def pastSave (w : PhaseWord) : Bool := decide (w ≠ phEntSave)

/-- The top frame's ENT_BANK_READ has been done. -/
def pastBankRead (w : PhaseWord) : Bool := decide (w ≠ phEntSave) && decide (w ≠ phEntBankRead)

/-- The phases between the latch read and the handler's end: IRQ activations only (43_dispatch.md
R105). -/
def sourcePhase (w : PhaseWord) : Bool :=
  isHandler w || [phDspLatchRead, phDspTableLo, phDspTableHi, phDspJump].contains w

/-- The phases in which `off` holds a checked latch value (43_dispatch.md R106). -/
def offPhase (w : PhaseWord) : Bool := [phDspTableLo, phDspTableHi, phDspJump].contains w

/-- The return position of an outermost activation (R38 (b)). -/
def Machine.Position.isProg : Position → Bool
  | .prog _ => true
  | .hnd _ _ _ _ => false

/-- The return position of a nested activation: a handler row of 30_encoding.md R66 (R38 (b)). -/
def Machine.Position.isHnd : Position → Bool
  | .prog _ => false
  | .hnd h st _ _ => isHandler (handlerWord h st)

/-- The frames below the top: their activations wait in a handler, so each is fully saved. Nested ones
saved bank 0 and, with KSTACK, the kernel stack; the bottom one returns to the program. -/
def LowerFramesOk (cfg : Cfg) : List Frame → Prop
  | [] => True
  | [f] => f.ret.isProg ∧ f.brk = false ∧ (cfg.kstack = true → f.ssel = .user)
  | f :: rest =>
    (f.ret.isHnd ∧ f.brk = false ∧ f.bank = 0 ∧ (cfg.kstack = true → f.ssel = .kernel)) ∧
      LowerFramesOk cfg rest

/-- The top frame, saved as far as its activation's phase `w` has come (R38 (b), 10_state.md R23). -/
def TopFrameOk (cfg : Cfg) (w : PhaseWord) (f : Frame) (rest : List Frame) : Prop :=
  (sourcePhase w → f.brk = false) ∧
    if rest = [] then
      f.ret.isProg ∧ (cfg.kstack = true → pastSave w → f.ssel = .user)
    else
      f.ret.isHnd ∧ f.brk = false ∧ (cfg.kstack = true → pastSave w → f.ssel = .kernel) ∧
        (pastBankRead w → f.bank = 0)

/-- The frame stack of a state in phase `w` (R38 (b)). -/
def FramesOk (cfg : Cfg) (w : PhaseWord) : List Frame → Prop
  | [] => True
  | f :: rest => TopFrameOk cfg w f rest ∧ LowerFramesOk cfg rest

/-- What holds while no fault is recorded (R38 (a) to (e)). -/
structure Live (s : State) : Prop where
  /-- the phase word is a row of R66 and no FAULT word -/
  phase_row : isPhaseRow s.phase = true ∧ faultOfWord s.phase = none
  /-- R38 (a): IDLE exactly when no activation is under way -/
  idle_iff : s.phase = phIdle ↔ s.frames = []
  /-- R38 (b) -/
  frames_ok : FramesOk s.cfg s.phase s.frames
  /-- R38 (c), and User outside: with KSTACK, which stack is active -/
  stack_ok : s.cfg.kstack = true →
    s.ssel = if decide (2 ≤ s.frames.length) || kernelPhase s.phase then .kernel else .user
  /-- R38 (d): page 0 while dispatching, and throughout every nested activation -/
  bank_ok : (bankForced s.phase = true ∨ 2 ≤ s.frames.length) → s.bank0 = some 0
  /-- R38 (e) -/
  depth_le : s.frames.length ≤ s.cfg.maxDepth
  /-- R66: the kernel-stack phases only with KSTACK -/
  kstack_phases : s.cfg.kstack = false → s.phase ≠ phEntKstackSwitch ∧ s.phase ≠ phRstKstackRestore
  /-- 43_dispatch.md R106: `off` is a checked latch value while it is used -/
  off_ok : offPhase s.phase = true → latchValid s.off = true

/-- The machine invariant: an admitted configuration, memory in canonical form, SP values of SP_W
bits, `Live` while no fault is recorded, and the FAULT phase when one is (60_exceptions.md R131). -/
structure Inv (s : State) : Prop where
  cfg_ok : admitted s.cfg = true
  mem_wf : Memory.wf s.mem = true
  sp_lt : s.sp < 2 ^ s.cfg.spW
  frames_sp_lt : ∀ f ∈ s.frames, f.sp < 2 ^ s.cfg.spW
  live : s.fault = none → Live s
  faulted : ∀ c, s.fault = some c → s.phase = faultWord c

/-- No fault is recorded and the phase is no FAULT word: a step may be enabled (10_state.md R35). -/
def Running (s : State) : Prop := s.fault = none ∧ faultOfWord s.phase = none

/-- The program may step: no fault, phase IDLE (10_state.md R16, R35). -/
def AtIdle (s : State) : Prop := s.fault = none ∧ s.phase = 0x000

/-- The six latch values that name a source (30_encoding.md R68). -/
def sourceLatches : List Byte := [0x02, 0x04, 0x06, 0x08, 0x0A, 0x0C]

/-- The location of the byte of plain memory at `a` with page `b` selected (20_memory.md R45). -/
def plainByteLoc (cfg : Cfg) (b : Byte) (a : Addr) : Nat :=
  if addrTarget cfg a = .window then bankedLoc b a else plainLoc a

/-- `a` is plain memory that a write reaches with selector `bank0`: outside the window, or inside it
with a selected page that exists (20_memory.md R44, R45). -/
def reaches (s : State) (a : Addr) : Prop :=
  addrTarget s.cfg a = .memory ∨
    (addrTarget s.cfg a = .window ∧ ∃ b, s.bank0 = some b ∧ b.toNat < s.cfg.nBanks)

/-- A run of `n` steps from `t` to `u` that is inside an activation until it ends: no state before `u`
is at IDLE, `u` is (R174), and no reset falls in between. -/
def FirstActivationEnd (t : State) (n : Nat) (u : State) : Prop :=
  core.run n t = .next u ∧ u.phase = phIdle ∧
    (∀ m v, m < n → core.run m t = .next v → v.phase ≠ phIdle) ∧
    Event.reset ∉ u.history.drop t.history.length

end Sys2Proof
end

