-- ==== Sys2Proof/Certificates/Slice0/Obligations.lean ====
section
/-! DEFINITION. The statements for the provers. -/

open Sys2Proof Sys2Proof.Machine

/-! ### Fetching and decoding -/

/-- One step takes the next line, and runs the operation it decodes to, on the state with the line
taken and counted; past the script's end the line is a free one (10_state.md R35, 30_encoding.md R78;
log 4). -/
def Obligations.StepRunsDecodedLine : Prop :=
  ∀ s : State, admitted s.cfg = true →
    (∀ l rest, s.script = l :: rest →
      nextLine s = (l, { s with script := rest, drawCount := s.drawCount + 1 })) ∧
    (s.script = [] → (nextLine s).2 = { s with drawCount := s.drawCount + 1 }) ∧
    (∀ i, decodeLine (nextLine s).1 = .ok i → step s = exec i (nextLine s).2) ∧
    (∀ p rest, s.script = .event 6 p :: rest → step s = .refused (.reservedEvent 6)) ∧
    (∀ p rest, s.script = .event 7 p :: rest → step s = .refused (.reservedEvent 7))

/-- What the admission check says of a configuration, item by item over all addresses, and that a
configuration failing it is never run (00_scope.md R10, and the field types of R9; log 24). -/
def Obligations.AdmissionChecksConfiguration : Prop :=
  ∀ cfg : Cfg,
    (admitted cfg = true ↔
      (entryValue cfg.vec.nmi = cfg.nmiEntry ∧ entryValue cfg.vec.reset = cfg.resetEntry ∧
        entryValue cfg.vec.irq = cfg.dispatchEntry) ∧
      (∀ a : Addr, cfg.winLo ≤ a → a ≤ cfg.winHi →
        a ≠ 0xF000 ∧ a ≠ 0xF0FF ∧ a < 0xFFFA ∧ ∀ r < 4, a ≠ cfg.uartBase + BitVec.ofNat 16 r) ∧
      (1 ≤ cfg.maxDepth ∧ ∃ k < 8, cfg.brkMask = 1#8 <<< k) ∧
      (∀ k j, jumpEntry cfg k = some j →
        tableByte cfg (slotAddr cfg k false) = lowByte j ∧
          tableByte cfg (slotAddr cfg k true) = highByte j) ∧
      (∀ o < 14, cfg.tableBase + BitVec.ofNat 16 o ≠ 0xF000 ∧
        cfg.tableBase + BitVec.ofNat 16 o ≠ 0xF0FF ∧ cfg.tableBase + BitVec.ofNat 16 o < 0xFFFA ∧
        ∀ r < 4, cfg.tableBase + BitVec.ofNat 16 o ≠ cfg.uartBase + BitVec.ofNat 16 r) ∧
      (∀ r < 4, cfg.uartBase + BitVec.ofNat 16 r ≠ 0xF000 ∧
        cfg.uartBase + BitVec.ofNat 16 r ≠ 0xF0FF ∧ cfg.uartBase + BitVec.ofNat 16 r < 0xFFFA) ∧
      (1 ≤ cfg.nBanks ∧ cfg.nBanks ≤ 256 ∧ cfg.kstackTop < 2 ^ cfg.spW)) ∧
    (admitted cfg = false → ∀ s : State, s.cfg = cfg → step s = .refused .configurationRefused)

/-- A few words written out from the tables of 30_encoding.md R66, R67, R68, R70 decode to the
operations those tables name (configuration C0 of 95_test_vectors.md where an address needs one). -/
def Obligations.SampleWordsDecode : Prop :=
  decodePhase 0b000000001#9 {} = .ok .entSave ∧
  decodePhase 0b111011010#9 {} = .ok .handler53Ser0TxWrite ∧
  decodePhase 0b000011111#9 {} = .ok .faultUnmappedSource ∧
  decodeEvent 0b011#3 {} = .ok .evSwi ∧
  decodeLatch 0b00001010#8 = .latch0ASer0Irq ∧
  decodeLatch 0b00010110#8 = .latchReserved10To1E 0b011#3 ∧
  decodeBus Config.c0 0xFFFD (.read 0) = .ok (.addrVecReset true) ∧
  decodeBus Config.c0 0xE00A (.read 0) = .ok (.addrJtSlot5 false) ∧
  decodeBus Config.c0 0xD002 (.write 0x09) = .ok (.addrUartCmd (.write 0x09))

/-- Decoding the code of a well-formed operation gives the operation back: no operand bit is dropped
(30_encoding.md R63 to R79). -/
def Obligations.DecodeEncodeRoundTrip : Prop :=
  ∀ (cfg : Cfg) (i : Instr), admitted cfg = true → i.wf cfg = true →
    decode cfg (encode cfg i) = .ok i

/-- The other direction for bus addresses and latch bytes: a code that decodes belongs to one
well-formed operation whose own code has the same address and access (30_encoding.md R68 to R70). -/
def Obligations.BusAndLatchEncodeDecode : Prop :=
  (∀ (cfg : Cfg) (v : Byte), encode cfg (decodeLatch v) = .latch v) ∧
  ∀ (cfg : Cfg) (a : Addr) (acc : Access) (i : Instr), admitted cfg = true →
    decodeBus cfg a acc = .ok i →
    i.wf cfg = true ∧ ∃ acc', encode cfg i = .bus a acc' ∧
      (acc' = acc ∨ ∃ d, acc = .read d ∧ acc' = .read 0)

/-- The step event runs the micro-step that the phase word selects, with the draws the line supplies
(10_state.md R35, 30_encoding.md R66, R78). -/
def Obligations.StepEventRunsPhaseWord : Prop :=
  ∀ (s : State) (d : Draws) (i : Instr), Running s → s.phase ≠ 0x000 →
    decodePhase s.phase (stepVals d s) = .ok i →
    exec (.evStep .once d) s = exec i s ∧
      (∀ v vs, d.latch = v :: vs → (stepVals d s).latch = v) ∧
      (∀ v vs, d.status = v :: vs → (stepVals d s).status = v) ∧
      (∀ v vs, d.data = v :: vs → (stepVals d s).data = v)

/-- The phase words 30_encoding.md R66 lists as refused are exactly those the step event refuses. -/
def Obligations.UnmatchedPhaseWordsRefused : Prop :=
  ∀ (s : State) (d : Draws), admitted s.cfg = true → s.fault = none → s.frames ≠ [] →
    ((∃ r, exec (.evStep .once d) s = .refused r) ↔
      let code := s.phase.extractLsb' 0 4
      let h := s.phase.extractLsb' 4 3
      let st := s.phase.extractLsb' 7 2
      let fc := s.phase.extractLsb' 4 4
      (code = 0xA ∧ (h = 0 ∨ h = 7)) ∨ (code = 0xA ∧ h ≠ 5 ∧ st ≠ 0) ∨
        (code ≠ 0xA ∧ code ≠ 0xF ∧ s.phase.extractLsb' 4 5 ≠ 0) ∨
        ((s.phase = 0x003 ∨ s.phase = 0x00C) ∧ s.cfg.kstack = false) ∨
        (code = 0xF ∧ (s.phase.extractLsb' 8 1 = 1 ∨ fc = 0 ∨ 5 ≤ fc)))

/-! ### The interrupted program -/

/-- A program operation on a register or on the mask writes that and nothing else, as an operation of
the IDLE phase word (30_encoding.md R78). The SP value is taken modulo 2^SP_W (log 14). -/
def Obligations.ProgramRegisterOps : Prop :=
  ∀ (s : State) (v : Byte) (w : Addr) (n : Nat),
    exec (.idle [.setA v]) s = .next { s with a := v } ∧
    exec (.idle [.setX v]) s = .next { s with x := v } ∧
    exec (.idle [.setY v]) s = .next { s with y := v } ∧
    exec (.idle [.setP v]) s = .next { s with p := v } ∧
    exec (.idle [.setPC w]) s = .next { s with pc := w } ∧
    (n < 2 ^ s.cfg.spW → exec (.idle [.setSP n]) s = .next { s with sp := n }) ∧
    exec (.idle [.cli]) s = .next { s with imask := false } ∧
    exec (.idle [.sei]) s = .next { s with imask := true }

/-- The operations of one program step run in order, on the state the earlier ones left, and a fault
ends the step precisely: the state is the one before the step, plus the events recorded, the fault and
its phase (30_encoding.md R78, 60_exceptions.md R131). That R131's last sentence also undoes writes
made before the check, and that the spin count alone stands as counted, is the model's reading of it
(log 7). -/
def Obligations.ProgramOpsRunInOrder : Prop :=
  ∀ (xs ys : List ProgOp) (s t : State), s.fault = none → exec (.idle xs) s = .next t →
    (t.fault ≠ none →
      exec (.idle (xs ++ ys)) s = .next t ∧
      ∃ es c k, t = { s with
        history := s.history ++ es, fault := some c, phase := faultWord c, spins := k }) ∧
    (t.fault = none →
      (∀ u, exec (.idle ys) t = .next u → u.fault = none →
        exec (.idle (xs ++ ys)) s = .next u) ∧
      (∀ u, exec (.idle ys) t = .next u → u.fault ≠ none →
        exec (.idle (xs ++ ys)) s = .next { s with
          history := u.history, fault := u.fault, phase := u.phase, spins := u.spins }) ∧
      ∀ r, exec (.idle ys) t = .refused r → exec (.idle (xs ++ ys)) s = .refused r)

/-- A program step completes, by the phase word and by event 0 alike, and leaves alone what R16 says it
never writes; the phase and the fault record change only by raising a fault; without a `wr` every byte
of memory that is known stays, and without a `rd` either, every byte reads as it did (10_state.md R16).
That event 0 waits for the pending steps of a `withBank0` is the model's form (log 19). -/
def Obligations.ProgramStepCompletesAndKeeps : Prop :=
  ∀ (ops : List ProgOp) (s : State), admitted s.cfg = true → AtIdle s → opsWf s.cfg ops = true →
    ∃ t, exec (.idle ops) s = .next t ∧ (s.pending = .done → exec (.evProg ops) s = .next t) ∧
      t.pending = s.pending ∧ t.ssel = s.ssel ∧ t.frames = s.frames ∧ t.sectorPtr = s.sectorPtr ∧
      t.brkUnimpl = s.brkUnimpl ∧ t.cfg = s.cfg ∧ t.off = s.off ∧ t.lo = s.lo ∧ t.hi = s.hi ∧
      t.rx = s.rx ∧
      ((t.fault = none ∧ t.phase = 0x000) ∨ ∃ c, t.fault = some c ∧ t.phase = faultWord c) ∧
      ((∀ a v, ProgOp.wr a v ∉ ops) →
        (∀ loc v, (∀ w, s.byteAt loc w = v) → ∀ w, t.byteAt loc w = v) ∧
        ((∀ a v, ProgOp.rd a v ∉ ops) → ∀ loc w, t.byteAt loc w = s.byteAt loc w))

/-- BankSwitch `read()` and `write(page)` as program operations, and as the $F000 rows: a read returns
the stored byte or raises BANK_UNWRITTEN, a write stores all eight bits; `bankrd` puts the byte in A
(41_bankswitch.md R89, R90, 30_encoding.md R78). -/
def Obligations.BankSwitchReadAndWrite : Prop :=
  (∀ (cfg : Cfg) (v : Byte), decodeBus cfg 0xF000 (.read v) = .ok .addrBank0Read ∧
    decodeBus cfg 0xF000 (.write v) = .ok (.addrBank0Write v)) ∧
  ∀ (s : State) (page : Byte),
    exec (.addrBank0Write page) s =
      .next { s with history := s.history ++ [.wr 0xF000 page], bank0 := some page } ∧
    exec (.idle [.bankWr page]) s = exec (.addrBank0Write page) s ∧
    (∀ b, s.bank0 = some b →
      exec .addrBank0Read s = .next { s with history := s.history ++ [.rd 0xF000 b] } ∧
      exec (.idle [.bankRd]) s =
        .next { s with history := s.history ++ [.rd 0xF000 b], a := b }) ∧
    (s.bank0 = none →
      exec .addrBank0Read s =
        .next { s with history := s.history ++ [.fault .bankUnwritten 0xF000],
                       fault := some .bankUnwritten, phase := 0x03F } ∧
      exec (.idle [.bankRd]) s = exec .addrBank0Read s)

/-- The polls of `receiveByte` and `transmitByte` as program steps: a wait starts with
`spins` at 0 under MAX_SPINS, a ready status ends it with no block state written, an unready one
counts only under MAX_SPINS and faults when the count reaches it (40_serialio.md R82 to R84, R87;
log 21). The count left in the faulted state is not claimed. -/
def Obligations.ProgramPollsStatus : Prop :=
  ∀ (s : State) (v : Byte), admitted s.cfg = true →
    ∀ (op : ProgOp) (mask : Byte),
      (op = .pollRx v ∧ mask = 0x08) ∨ (op = .pollTx v ∧ mask = 0x10) →
    let h := s.history ++ [.rd (s.cfg.uartBase + 1) v]
    (s.cfg.maxSpins = none → exec (.idle [.beginWait]) s = .next s) ∧
    (s.cfg.maxSpins ≠ none → exec (.idle [.beginWait]) s = .next { s with spins := 0 }) ∧
    (v &&& mask ≠ 0 → exec (.idle [op]) s = .next { s with history := h }) ∧
    (v &&& mask = 0 → s.cfg.maxSpins = none →
      exec (.idle [op]) s = .next { s with history := h }) ∧
    (v &&& mask = 0 → ∀ n, s.cfg.maxSpins = some n → s.spins + 1 < n →
      exec (.idle [op]) s = .next { s with history := h, spins := s.spins + 1 }) ∧
    (v &&& mask = 0 → ∀ n, s.cfg.maxSpins = some n → n ≤ s.spins + 1 →
      ∃ k, exec (.idle [op]) s =
        .next { s with history := h ++ [.fault .spinLimit v.toNat], spins := k,
                       fault := some .spinLimit, phase := 0x04F })

/-- `withBank0(action)` reads the selector and leaves the rest of R91's sequence to come, one program
step each: the write of 0, the action's steps, the write of the byte read. Run with NMIs at any places
between the steps, it ends with the selector as it was and the restoring write last, unless a step of
the action faults (30_encoding.md R79, 41_bankswitch.md R91, R92). That the steps to come stand in
State and an empty `prog` line takes the next one is the model's form (log 19). -/
def Obligations.WithBank0RestoresSelector : Prop :=
  (∀ (s : State) (action : ProgSeq), AtIdle s → s.pending = .done →
    (∀ b, s.bank0 = some b → exec (.pseudoWithBank0 action) s = .next { s with
      history := s.history ++ [.rd 0xF000 b],
      pending := .step [.bankWr 0x00] (seqThen action (.step [.bankWr b] .done)) }) ∧
    (s.bank0 = none → exec (.pseudoWithBank0 action) s = .next { s with
      history := s.history ++ [.fault .bankUnwritten 0xF000],
      fault := some .bankUnwritten, phase := 0x03F })) ∧
  ∀ (s : State) (b : Byte) (action : ProgSeq) (ls rest : List Line), admitted s.cfg = true →
    AtIdle s → s.pending = .done → s.bank0 = some b → action.wf s.cfg = true →
    (∀ l ∈ ls, l = .event 4 {} ∨ l = .event 0 {}) →
    ls.count (.event 0 {}) = seqLength action + 2 → ls.getLast? = some (.event 0 {}) →
    s.script = .pseudo .withBank0 { action := action } :: (ls ++ rest) →
    let nmiEvents : List Event :=
      [.nmi, .rd 0xFFFA (lowByte s.cfg.nmiEntry), .rd 0xFFFB (highByte s.cfg.nmiEntry)]
    (∃ n u c, n ≤ ls.length ∧ core.run n s = .next u ∧ u.fault = some c) ∨
    ∃ u es, core.run (ls.length + 1) s = .next u ∧ u.bank0 = some b ∧ u.pending = .done ∧
      u.phase = 0x000 ∧ u.fault = none ∧ u.frames = s.frames ∧ u.script = rest ∧
      u.history = s.history ++ [.rd 0xF000 b] ++ es ++ [.wr 0xF000 b] ∧
      (es.filter fun e => !nmiEvents.contains e).head? = some (.wr 0xF000 0x00)

/-- `prog cli` and `prog sei` as pseudo-operations (30_encoding.md R79): the mask and nothing else, at
IDLE. Where the program may not step they leave the state as it is (log 5). Inside a `withBank0` they,
a `prog` line and a further `withBank0` come after its pending steps: the line is put back and the
pending step is taken, which an empty `prog` line takes alone (log 19). -/
def Obligations.MaskPseudoOps : Prop :=
  ∀ s : State,
    (AtIdle s → s.pending = .done → exec .pseudoCli s = .next { s with imask := false } ∧
      exec .pseudoSei s = .next { s with imask := true }) ∧
    (Running s → s.phase ≠ 0x000 → exec .pseudoCli s = .next s ∧ exec .pseudoSei s = .next s) ∧
    (AtIdle s → ∀ ops rest, s.pending = .step ops rest →
      let again := fun (l : Line) => exec (.evProg []) { s with script := l :: s.script }
      exec .pseudoCli s = again (.pseudo .cli {}) ∧ exec .pseudoSei s = again (.pseudo .sei {}) ∧
      (∀ action, exec (.pseudoWithBank0 action) s =
        again (.pseudo .withBank0 { action := action })) ∧
      (∀ own, own ≠ [] → exec (.evProg own) s = again (.event 0 { ops := own })) ∧
      ∀ t, exec (.idle ops) { s with pending := rest } = .next t →
        (t.fault = none → exec (.evProg []) s = .next t) ∧
        (t.fault ≠ none → exec (.evProg []) s = .next { t with pending := s.pending }))

/-! ### Entering -/

/-- ENT_SAVE, whole (42_entry.md R100). -/
def Obligations.EntSaveCopiesRegisters : Prop :=
  (∀ v, decodePhase 0x001 v = .ok .entSave) ∧
  ∀ (s : State) (f : Frame) (rest : List Frame), s.frames = f :: rest →
    exec .entSave s = .next { s with
      frames := { f with a := s.a, x := s.x, y := s.y,
                         sp := if s.cfg.kstack then s.sp else f.sp,
                         ssel := if s.cfg.kstack then s.ssel else f.ssel } :: rest,
      phase := 0x002 }

/-- ENT_BANK_READ, whole: the selector is saved, or the read of an unwritten one faults
(42_entry.md R101). -/
def Obligations.EntBankReadSavesSelector : Prop :=
  (∀ v, decodePhase 0x002 v = .ok .entBankRead) ∧
  ∀ (s : State) (f : Frame) (rest : List Frame), s.frames = f :: rest →
    (∀ v, s.bank0 = some v →
      exec .entBankRead s = .next { s with
        history := s.history ++ [.rd 0xF000 v],
        frames := { f with bank := v } :: rest,
        phase := if s.cfg.kstack then 0x003 else 0x004 }) ∧
    (s.bank0 = none →
      exec .entBankRead s = .next { s with
        history := s.history ++ [.fault .bankUnwritten 0xF000],
        fault := some .bankUnwritten, phase := 0x03F })

/-- ENT_KSTACK_SWITCH, whole: the kernel stack top is loaded only when coming from the user stack; the
word is refused without KSTACK (42_entry.md R102). -/
def Obligations.EntKstackSwitchSelectsKernel : Prop :=
  (∀ v, decodePhase 0x003 v = .ok .entKstackSwitch) ∧
  ∀ s : State,
    (s.cfg.kstack = true → s.ssel = .user →
      exec .entKstackSwitch s =
        .next { s with sp := s.cfg.kstackTop, ssel := .kernel, phase := 0x004 }) ∧
    (s.cfg.kstack = true → s.ssel = .kernel →
      exec .entKstackSwitch s = .next { s with phase := 0x004 }) ∧
    (s.cfg.kstack = false → exec .entKstackSwitch s = .refused .kstackAbsent)

/-- ENT_BANK_FORCE, whole: the write of 0 happens whatever BANK0 holds (42_entry.md R103). -/
def Obligations.EntBankForceWritesZero : Prop :=
  (∀ v, decodePhase 0x004 v = .ok .entBankForce) ∧
  ∀ s : State, exec .entBankForce s = .next { s with
    history := s.history ++ [.wr 0xF000 0x00], bank0 := some 0x00, phase := 0x005 }

/-- Entering as a whole: from IDLE, an accepted IRQ followed by the Entering micro-steps, with NMIs at
any places between them, leaves exactly this history apart from the NMIs' events, this frame and this
state (42_entry.md R104; the unset frame fields without KSTACK are not claimed). -/
def Obligations.EnteringSequence : Prop :=
  ∀ (s : State) (b : Byte) (ls rest : List Line), admitted s.cfg = true → AtIdle s →
    s.imask = false → s.frames = [] → s.bank0 = some b →
    (∀ l ∈ ls, l = .event 4 {} ∨ l = .event 5 {}) →
    ls.count (.event 5 {}) = (if s.cfg.kstack then 4 else 3) →
    s.script = .event 2 {} :: (ls ++ rest) →
    let nmiEvents : List Event :=
      [.nmi, .rd 0xFFFA (lowByte s.cfg.nmiEntry), .rd 0xFFFB (highByte s.cfg.nmiEntry)]
    ∃ u sp ssel es, core.run (ls.length + 1) s = .next u ∧ u.history = s.history ++ es ∧
      (es.filter fun e => !nmiEvents.contains e) =
        [.irq, .rd 0xFFFE (lowByte s.cfg.dispatchEntry),
          .rd 0xFFFF (highByte s.cfg.dispatchEntry), .rd 0xF000 b, .wr 0xF000 0x00] ∧
      u.frames = [{ ret := .prog s.pc, p := s.p, brk := false, a := s.a, x := s.x, y := s.y,
                    bank := b, sp := sp, ssel := ssel }] ∧
      (s.cfg.kstack = true → sp = s.sp ∧ ssel = s.ssel ∧ u.ssel = .kernel) ∧
      u.bank0 = some 0x00 ∧ u.phase = 0x005 ∧ u.pc = s.cfg.dispatchEntry ∧ u.imask = false ∧
      u.p = s.p

/-! ### Dispatching -/

/-- DSP_BRK_CHECK, whole, with the pushed status byte it tests: the break flag shows in it exactly when
the frame's `brk` is set, and its other bits are those of P (43_dispatch.md R105,
30_encoding.md R72). -/
def Obligations.DspBrkCheckBranches : Prop :=
  (∀ v, decodePhase 0x005 v = .ok .dspBrkCheck) ∧
  ∀ (s : State) (f : Frame) (rest : List Frame), admitted s.cfg = true → s.frames = f :: rest →
    pushedStatus s.cfg f =
      (f.p &&& ~~~s.cfg.brkMask) ||| (if f.brk then s.cfg.brkMask else 0) ∧
    (pushedStatus s.cfg f &&& s.cfg.brkMask ≠ 0 ↔ f.brk = true) ∧
    pushedStatus s.cfg f &&& ~~~s.cfg.brkMask = f.p &&& ~~~s.cfg.brkMask ∧
    (f.brk = true → exec .dspBrkCheck s = .next { s with
      history := s.history ++ [.brkUnimplemented], brkUnimpl := true, phase := 0x00B }) ∧
    (f.brk = false → exec .dspBrkCheck s = .next { s with phase := 0x006 })

/-- DSP_LATCH_READ, whole: a source's latch value is kept, any other faults before a table read
(43_dispatch.md R106). -/
def Obligations.DspLatchReadChecksSource : Prop :=
  (∀ v, decodePhase 0x006 v = .ok (.dspLatchRead v.latch)) ∧
  ∀ (s : State) (v : Byte),
    (v ∈ sourceLatches → exec (.dspLatchRead v) s = .next { s with
      history := s.history ++ [.rd 0xF0FF v], off := v, phase := 0x007 }) ∧
    (v ∉ sourceLatches → exec (.dspLatchRead v) s = .next { s with
      history := s.history ++ [.rd 0xF0FF v, .fault .unmappedSource v.toNat],
      fault := some .unmappedSource, phase := 0x01F })

/-- The two table reads of an activation of handler `h` return the bytes of `JT[h]`, low byte first,
from TABLE_BASE + off and the address after it (43_dispatch.md R108, R109, R110). -/
def Obligations.DspTableReadsEntry : Prop :=
  (∀ v, decodePhase 0x007 v = .ok .dspTableLo ∧ decodePhase 0x008 v = .ok .dspTableHi) ∧
  ∀ (s : State) (h : Nat) (j : Addr), admitted s.cfg = true → jumpEntry s.cfg h = some j →
    s.off = BitVec.ofNat 8 (2 * h) →
    exec .dspTableLo s = .next { s with
      history := s.history ++ [.rd (s.cfg.tableBase + BitVec.ofNat 16 (2 * h)) (lowByte j)],
      lo := lowByte j, phase := 0x008 } ∧
    exec .dspTableHi s = .next { s with
      history := s.history ++ [.rd (s.cfg.tableBase + BitVec.ofNat 16 (2 * h + 1)) (highByte j)],
      hi := highByte j, phase := 0x009 }

/-- DSP_JUMP, whole: PC from the two table bytes, the count cleared, `rx` unspecified, and the handler
that the offset names at its first step (43_dispatch.md R111). -/
def Obligations.DspJumpReachesHandler : Prop :=
  (∀ v, decodePhase 0x009 v = .ok .dspJump) ∧
  ∀ s : State, s.off ∈ sourceLatches →
    ∃ rx h, (s.off, h) ∈ [(0x02#8, 0x01A#9), (0x04#8, 0x02A#9), (0x06#8, 0x03A#9),
        (0x08#8, 0x04A#9), (0x0A#8, 0x05A#9), (0x0C#8, 0x06A#9)] ∧
      exec .dspJump s = .next { s with pc := s.hi ++ s.lo, spins := 0, rx := rx, phase := h }

/-- The latch rows: each of the six source bytes goes on to the table fetch with itself as the offset,
each of the 250 others faults with itself as the info; and the micro-step that reads the latch runs
the row of the byte it read, after the read (30_encoding.md R68, R69, 43_dispatch.md R106). -/
def Obligations.LatchRowsAcceptOrFault : Prop :=
  ∀ s : State,
    let accept := fun (v : Byte) => Host.Outcome.next (φ := Fault) (ρ := Refusal)
      { s with off := v, phase := 0x007 }
    let unmapped := fun (v : Byte) => Host.Outcome.next (φ := Fault) (ρ := Refusal)
      { s with history := s.history ++ [.fault .unmappedSource v.toNat],
               fault := some .unmappedSource, phase := 0x01F }
    (exec .latch02Fdc0Drq s = accept 0x02 ∧ exec .latch04Fdc1Drq s = accept 0x04 ∧
      exec .latch06Fdc0Irq s = accept 0x06 ∧ exec .latch08Fdc1Irq s = accept 0x08 ∧
      exec .latch0ASer0Irq s = accept 0x0A ∧ exec .latch0CSer1Irq s = accept 0x0C) ∧
    (exec .latchReservedGuard s = unmapped 0x00 ∧ exec .latchReserved0E s = unmapped 0x0E ∧
      (∀ n, exec (.latchReservedOdd n) s = unmapped (n ++ 1#1)) ∧
      (∀ n, exec (.latchReserved10To1E n) s = unmapped (0b0001#4 ++ n ++ 0#1)) ∧
      (∀ n, exec (.latchReserved20To3E n) s = unmapped (0b001#3 ++ n ++ 0#1)) ∧
      (∀ n, exec (.latchReserved40To7E n) s = unmapped (0b01#2 ++ n ++ 0#1)) ∧
      ∀ n, exec (.latchReserved80ToFE n) s = unmapped (0b1#1 ++ n ++ 0#1)) ∧
    ∀ v, exec (.dspLatchRead v) s =
      exec (decodeLatch v) { s with history := s.history ++ [.rd 0xF0FF v] }

/-- Dispatch as a whole: for a source's latch byte, four micro-steps lead to exactly the handler of
that offset with PC at its entry, one latch read and two table reads on the way; any other byte ends
in UNMAPPED_SOURCE at the first of them (43_dispatch.md R112). -/
def Obligations.DispatchSequence : Prop :=
  ∀ (s : State) (v : Byte) (rest : List Line), admitted s.cfg = true → s.fault = none →
    s.phase = 0x006 →
    s.script = .event 5 { draws := { latch := [v] } } :: (List.replicate 3 (.event 5 {}) ++ rest) →
    (∀ h j, jumpEntry s.cfg h = some j → v = BitVec.ofNat 8 (2 * h) →
      ∃ u, core.run 4 s = .next u ∧ u.phase = handlerWord (BitVec.ofNat 3 h) 0 ∧ u.pc = j ∧
        u.history = s.history ++ [.rd 0xF0FF v,
          .rd (s.cfg.tableBase + BitVec.ofNat 16 (2 * h)) (lowByte j),
          .rd (s.cfg.tableBase + BitVec.ofNat 16 (2 * h + 1)) (highByte j)] ∧
        u.frames = s.frames ∧ u.bank0 = s.bank0 ∧ u.fault = none) ∧
    (v ∉ sourceLatches → ∃ u, core.run 1 s = .next u ∧ u.fault = some .unmappedSource ∧
      core.run 2 s = .fault .unmappedSource)

/-! ### Handlers -/

/-- HANDLER(1,0), whole: the sector counter counts, modulo 2^16, only with SECTOR
(44_handlers.md R115). -/
def Obligations.HandlerFdc0DrqCountsSector : Prop :=
  (∀ v, decodePhase 0x01A v = .ok .handler10Fdc0Drq) ∧
  ∀ s : State,
    (s.cfg.sector = true → exec .handler10Fdc0Drq s = .next { s with
      sectorPtr := BitVec.ofNat 16 (s.sectorPtr.toNat + 1), pc := s.cfg.restoreEntry,
      phase := 0x00B }) ∧
    (s.cfg.sector = false → exec .handler10Fdc0Drq s = .next { s with
      pc := s.cfg.restoreEntry, phase := 0x00B })

/-- The four no-op handlers go straight to the restore path (44_handlers.md R116, R117, R118, R123). -/
def Obligations.NoOpHandlersRestore : Prop :=
  (∀ v, decodePhase 0x02A v = .ok .handler20Fdc1Drq ∧
    decodePhase 0x03A v = .ok .handler30Fdc0Irq ∧ decodePhase 0x04A v = .ok .handler40Fdc1Irq ∧
    decodePhase 0x06A v = .ok .handler60Ser1) ∧
  ∀ s : State,
    let restored := Host.Outcome.next (φ := Fault) (ρ := Refusal)
      { s with pc := s.cfg.restoreEntry, phase := 0x00B }
    exec .handler20Fdc1Drq s = restored ∧ exec .handler30Fdc0Irq s = restored ∧
      exec .handler40Fdc1Irq s = restored ∧ exec .handler60Ser1 s = restored

/-- The serial-0 receive poll, whole: ready, unready, and the limit (44_handlers.md R119,
40_serialio.md R87). The count left in the faulted state is not claimed. -/
def Obligations.Ser0RxPollWaitsForRxFull : Prop :=
  (∀ v, decodePhase 0x05A v = .ok (.handler50Ser0RxPoll v.status)) ∧
  ∀ (s : State) (v : Byte), admitted s.cfg = true →
    let h := s.history ++ [.rd (s.cfg.uartBase + 1) v]
    (v &&& 0x08 ≠ 0 → exec (.handler50Ser0RxPoll v) s =
      .next { s with history := h, spins := 0, phase := 0x0DA }) ∧
    (v &&& 0x08 = 0 → s.cfg.maxSpins = none → exec (.handler50Ser0RxPoll v) s =
      .next { s with history := h, phase := 0x05A }) ∧
    (v &&& 0x08 = 0 → ∀ n, s.cfg.maxSpins = some n → s.spins + 1 < n →
      exec (.handler50Ser0RxPoll v) s =
        .next { s with history := h, spins := s.spins + 1, phase := 0x05A }) ∧
    (v &&& 0x08 = 0 → ∀ n, s.cfg.maxSpins = some n → n ≤ s.spins + 1 →
      ∃ k, exec (.handler50Ser0RxPoll v) s =
        .next { s with history := h ++ [.fault .spinLimit v.toNat], spins := k,
                       fault := some .spinLimit, phase := 0x04F })

/-- The serial-0 transmit poll, whole: ready, unready, and the limit (44_handlers.md R121,
40_serialio.md R87). The count left in the faulted state is not claimed. -/
def Obligations.Ser0TxPollWaitsForTxEmpty : Prop :=
  (∀ v, decodePhase 0x15A v = .ok (.handler52Ser0TxPoll v.status)) ∧
  ∀ (s : State) (v : Byte), admitted s.cfg = true →
    let h := s.history ++ [.rd (s.cfg.uartBase + 1) v]
    (v &&& 0x10 ≠ 0 → exec (.handler52Ser0TxPoll v) s =
      .next { s with history := h, spins := 0, phase := 0x1DA }) ∧
    (v &&& 0x10 = 0 → s.cfg.maxSpins = none → exec (.handler52Ser0TxPoll v) s =
      .next { s with history := h, phase := 0x15A }) ∧
    (v &&& 0x10 = 0 → ∀ n, s.cfg.maxSpins = some n → s.spins + 1 < n →
      exec (.handler52Ser0TxPoll v) s =
        .next { s with history := h, spins := s.spins + 1, phase := 0x15A }) ∧
    (v &&& 0x10 = 0 → ∀ n, s.cfg.maxSpins = some n → n ≤ s.spins + 1 →
      ∃ k, exec (.handler52Ser0TxPoll v) s =
        .next { s with history := h ++ [.fault .spinLimit v.toNat], spins := k,
                       fault := some .spinLimit, phase := 0x04F })

/-- The serial-0 data steps, whole: the byte read from DATA is kept in `rx`, and `rx` is the byte
written to DATA (44_handlers.md R120, R122). -/
def Obligations.Ser0DataReadAndWrite : Prop :=
  (∀ v, decodePhase 0x0DA v = .ok (.handler51Ser0RxRead v.data) ∧
    decodePhase 0x1DA v = .ok .handler53Ser0TxWrite) ∧
  ∀ (s : State) (v : Byte), admitted s.cfg = true →
    exec (.handler51Ser0RxRead v) s = .next { s with
      history := s.history ++ [.rd s.cfg.uartBase v], rx := v, phase := 0x15A } ∧
    exec .handler53Ser0TxWrite s = .next { s with
      history := s.history ++ [.wr s.cfg.uartBase s.rx], pc := s.cfg.restoreEntry,
      phase := 0x00B }

/-- A step of a handler goes to the restore path with PC at RESTORE_ENTRY, stays in the same handler,
or hits the spin limit; and no handler writes BANK0, P, SP, SSEL, A, X, Y, the mask, the frames or
memory (44_handlers.md R113, R114). -/
def Obligations.HandlerStepsStayOrRestore : Prop :=
  ∀ (s t : State) (d : Draws), admitted s.cfg = true → s.fault = none → isHandler s.phase = true →
    exec (.evStep .once d) s = .next t →
    ((t.phase = 0x00B ∧ t.pc = s.cfg.restoreEntry ∧ t.fault = none) ∨
      (isHandler t.phase = true ∧ phaseHandler t.phase = phaseHandler s.phase ∧ t.pc = s.pc ∧
        t.fault = none) ∨
      (t.fault = some .spinLimit ∧ s.cfg.maxSpins ≠ none)) ∧
    t.bank0 = s.bank0 ∧ t.p = s.p ∧ t.sp = s.sp ∧ t.ssel = s.ssel ∧ t.a = s.a ∧ t.x = s.x ∧
    t.y = s.y ∧ t.imask = s.imask ∧ t.frames = s.frames ∧ t.mem = s.mem

/-! ### Restoring -/

/-- RST_BANK_WRITE, whole (45_restore.md R126). -/
def Obligations.RstBankWriteRestoresSelector : Prop :=
  (∀ v, decodePhase 0x00B v = .ok .rstBankWrite) ∧
  ∀ (s : State) (f : Frame) (rest : List Frame), s.frames = f :: rest →
    exec .rstBankWrite s = .next { s with
      history := s.history ++ [.wr 0xF000 f.bank], bank0 := some f.bank,
      phase := if s.cfg.kstack then 0x00C else 0x00D }

/-- RST_KSTACK_RESTORE, whole (45_restore.md R127). Without KSTACK the word is refused
(30_encoding.md R66); that the refusal is made by the micro-step, not by the decoder, is the model's
choice (log 16). -/
def Obligations.RstKstackRestoreRestoresStack : Prop :=
  (∀ v, decodePhase 0x00C v = .ok .rstKstackRestore) ∧
  ∀ (s : State) (f : Frame) (rest : List Frame), s.frames = f :: rest →
    (s.cfg.kstack = true → exec .rstKstackRestore s =
      .next { s with sp := f.sp, ssel := f.ssel, phase := 0x00D }) ∧
    (s.cfg.kstack = false → exec .rstKstackRestore s = .refused .kstackAbsent)

/-- RST_POP, whole (45_restore.md R128). -/
def Obligations.RstPopRestoresRegisters : Prop :=
  (∀ v, decodePhase 0x00D v = .ok .rstPop) ∧
  ∀ (s : State) (f : Frame) (rest : List Frame), s.frames = f :: rest →
    exec .rstPop s = .next { s with a := f.a, x := f.x, y := f.y, phase := 0x00E }

/-- RST_RTI, whole: P and the frame, and either the program's PC or the interrupted handler with its
temporaries (45_restore.md R129). -/
def Obligations.RstRtiReturns : Prop :=
  (∀ v, decodePhase 0x00E v = .ok .rstRti) ∧
  ∀ (s : State) (f : Frame) (rest : List Frame), s.frames = f :: rest →
    (∀ pc, f.ret = .prog pc → exec .rstRti s =
      .next { s with p := f.p, frames := rest, pc := pc, phase := 0x000 }) ∧
    (∀ h st rx spins, f.ret = .hnd h st rx spins → exec .rstRti s =
      .next { s with p := f.p, frames := rest, rx := rx, spins := spins,
                     phase := st ++ h ++ 0xA#4 })

/-! ### Faults -/

/-- A faulted state has no enabled step: whatever event or pseudo-operation comes, the machine stops
with the recorded fault, and so do the four FAULT phase words themselves (10_state.md R35,
60_exceptions.md R131; that the stop is `Outcome.fault` is the model's form, log 6). -/
def Obligations.FaultedStateHasNoStep : Prop :=
  (∀ (s : State) (c : Fault) (l : Line) (i : Instr), s.fault = some c → decodeLine l = .ok i →
    exec i s = .fault c) ∧
  ∀ s : State, exec .faultUnmappedSource s = .fault .unmappedSource ∧
    exec .faultStackOverflow s = .fault .stackOverflow ∧
    exec .faultBankUnwritten s = .fault .bankUnwritten ∧
    exec .faultSpinLimit s = .fault .spinLimit

/-! ### Events -/

/-- The reset event, whole: every register of R154 takes its reset value or its draw, the one the line
supplies where it supplies one; PC comes from the reset vector; the temporaries and plain memory, which
R37 and R60 leave unspecified, are not claimed (70_reset_and_hazards.md R154). -/
def Obligations.ResetEventResetsState : Prop :=
  (∀ p, decodeEvent 1 p = .ok (.evReset p.regs)) ∧
  ∀ (s : State) (d : ResetDraws), admitted s.cfg = true → Running s →
    (∀ v, d.sp = some v → v < 2 ^ s.cfg.spW) →
    ∃ a x y p sp sector off lo hi rx spins mem pending,
      (∀ v, d.a = some v → a = v) ∧ (∀ v, d.x = some v → x = v) ∧ (∀ v, d.y = some v → y = v) ∧
      (∀ v, d.p = some v → p = v) ∧ (∀ v, d.sp = some v → sp = v) ∧ sp < 2 ^ s.cfg.spW ∧
      (∀ v, d.sector = some v → sector = v) ∧
      exec (.evReset d) s = .next { s with
      history := s.history ++ [.reset, .rd 0xFFFC (lowByte s.cfg.resetEntry),
        .rd 0xFFFD (highByte s.cfg.resetEntry)],
      frames := [], phase := 0x000, bank0 := s.cfg.bankReset, imask := true, brkUnimpl := false,
      ssel := .user, a := a, x := x, y := y, p := p, sp := sp,
      sectorPtr := if s.cfg.sector then sector else s.sectorPtr,
      pc := s.cfg.resetEntry, off := off, lo := lo, hi := hi, rx := rx, spins := spins,
      mem := mem, pending := pending }

/-- After reset every piece of state that R37 gives a value holds it: the state the machine starts in,
under any admitted configuration, and the state after a reset event (10_state.md R37; that the
history before the first reset is empty is log 26). -/
def Obligations.StateAfterReset : Prop :=
  ∀ cfg : Cfg, admitted cfg = true →
    let ok := fun (t : State) => t.phase = 0x000 ∧ t.frames = [] ∧ t.pc = cfg.resetEntry ∧
      t.ssel = .user ∧ t.bank0 = cfg.bankReset ∧ t.imask = true ∧ t.brkUnimpl = false ∧
      t.fault = none
    (ok (State.resetOf cfg) ∧ (State.resetOf cfg).history =
      [.reset, .rd 0xFFFC (lowByte cfg.resetEntry), .rd 0xFFFD (highByte cfg.resetEntry)]) ∧
    ∀ (s t : State) (d : ResetDraws), s.cfg = cfg → exec (.evReset d) s = .next t →
      ok t ∧ t.history = s.history ++
        [.reset, .rd 0xFFFC (lowByte cfg.resetEntry), .rd 0xFFFD (highByte cfg.resetEntry)]

/-- IRQ acceptance, whole: from IDLE and from a handler step, the two vector reads, the new frame with
its return position, PC at DISPATCH_ENTRY; the depth check comes first and faults with nothing pushed
or read (42_entry.md R98). The frame's unset fields are not claimed. -/
def Obligations.IrqAcceptance : Prop :=
  (∀ p, decodeEvent 2 p = .ok .evIrq) ∧
  ∀ s : State, admitted s.cfg = true → s.fault = none → s.imask = false →
    ∀ ret : Position,
      (s.phase = 0x000 ∧ ret = .prog s.pc) ∨
        (isHandler s.phase = true ∧ s.cfg.nestEnable = true ∧
          ret = .hnd (s.phase.extractLsb' 4 3) (s.phase.extractLsb' 7 2) s.rx s.spins) →
    (s.frames.length ≠ s.cfg.maxDepth →
      ∃ a x y bank sp ssel, exec .evIrq s = .next { s with
        history := s.history ++ [.irq, .rd 0xFFFE (lowByte s.cfg.dispatchEntry),
          .rd 0xFFFF (highByte s.cfg.dispatchEntry)],
        frames := { ret := ret, p := s.p, brk := false, a := a, x := x, y := y, bank := bank,
                    sp := sp, ssel := ssel } :: s.frames,
        pc := s.cfg.dispatchEntry, phase := 0x001 }) ∧
    (s.frames.length = s.cfg.maxDepth →
      exec .evIrq s = .next { s with
        history := s.history ++ [.fault .stackOverflow s.cfg.maxDepth],
        fault := some .stackOverflow, phase := 0x02F })

/-- SWI acceptance, whole: at IDLE whatever the mask, with the break flag in the frame
(42_entry.md R99). The frame's unset fields are not claimed. -/
def Obligations.SwiAcceptance : Prop :=
  (∀ p, decodeEvent 3 p = .ok .evSwi) ∧
  ∀ s : State, admitted s.cfg = true → AtIdle s →
    (s.frames.length ≠ s.cfg.maxDepth →
      ∃ a x y bank sp ssel, exec .evSwi s = .next { s with
        history := s.history ++ [.swi, .rd 0xFFFE (lowByte s.cfg.dispatchEntry),
          .rd 0xFFFF (highByte s.cfg.dispatchEntry)],
        frames := { ret := .prog s.pc, p := s.p, brk := true, a := a, x := x, y := y, bank := bank,
                    sp := sp, ssel := ssel } :: s.frames,
        pc := s.cfg.dispatchEntry, phase := 0x001 }) ∧
    (s.frames.length = s.cfg.maxDepth →
      exec .evSwi s = .next { s with
        history := s.history ++ [.fault .stackOverflow s.cfg.maxDepth],
        fault := some .stackOverflow, phase := 0x02F })

/-- Outside the acceptance points no IRQ and no SWI is accepted: the event leaves the state as it is
(42_entry.md R97; that a disabled event leaves the state unchanged is the model's form, log 5). -/
def Obligations.InterruptsOnlyAtAcceptancePoints : Prop :=
  ∀ s : State, Running s →
    ((s.imask = true ∨ (s.phase ≠ 0x000 ∧ (isHandler s.phase = false ∨ s.cfg.nestEnable = false))) →
      exec .evIrq s = .next s ∧ ∀ d, exec (.pseudoActivation d) s = .next s) ∧
    (s.phase ≠ 0x000 → exec .evSwi s = .next s) ∧
    (s.phase ≠ 0x000 → ∀ ops, exec (.evProg ops) s = .next s) ∧
    (s.phase = 0x000 → ∀ mode d, exec (.evStep mode d) s = .next s)

/-- NMI, whole: its event and the two vector reads, in any phase but FAULT, and nothing else
(60_exceptions.md R137). -/
def Obligations.NmiChangesNothingElse : Prop :=
  (∀ p, decodeEvent 4 p = .ok .evNmi) ∧
  ∀ s : State, admitted s.cfg = true → Running s →
    exec .evNmi s = .next { s with
      history := s.history ++ [.nmi, .rd 0xFFFA (lowByte s.cfg.nmiEntry),
        .rd 0xFFFB (highByte s.cfg.nmiEntry)] }

/-- `activation` is the IRQ acceptance with the run of its micro-steps queued next, and a repeated step
is the single step with the rest of the repetition queued, until it stops: at IDLE, at a fault, after
an RST_RTI, and for `run` where a draw is missing (30_encoding.md R78, R79; that the rest is queued
at the script's head is the model's form, log 20). -/
def Obligations.RunAndActivationRepeatSteps : Prop :=
  (∀ (s : State) (d : Draws), Running s → s.imask = false →
    (s.phase = 0x000 ∨ (isHandler s.phase = true ∧ s.cfg.nestEnable = true)) →
    s.frames.length ≠ s.cfg.maxDepth →
    ∃ t, exec .evIrq s = .next t ∧ t.phase = 0x001 ∧ t.frames.length = s.frames.length + 1 ∧
      exec (.pseudoActivation d) s =
        .next { t with script := .event 5 { mode := .activation, draws := d } :: s.script }) ∧
  ∀ (s t : State) (d : Draws) (mode : StepMode), mode ≠ .once → Running s → s.phase ≠ 0x000 →
    exec (.evStep .once d) s = .next t →
    (mode = .run ∧ drawMissing d s.phase = true → exec (.evStep mode d) s = .next s) ∧
    (¬(mode = .run ∧ drawMissing d s.phase = true) →
      ((s.phase = 0x00E ∨ t.phase = 0x000 ∨ ¬Running t) → exec (.evStep mode d) s = .next t) ∧
      (s.phase ≠ 0x00E → t.phase ≠ 0x000 → Running t → exec (.evStep mode d) s =
        .next { t with
          script := .event 5 { mode := mode, draws := drawsAfter d s.phase } :: t.script }))

/-- In every state the invariant allows, outside IDLE and without a fault, the dispatcher's micro-step
completes whatever the draws: it is never refused and never stuck (10_state.md R35, R38,
30_encoding.md R66). -/
def Obligations.DispatcherStepCompletes : Prop :=
  ∀ (s : State) (mode : StepMode) (d : Draws), Inv s → s.fault = none → s.phase ≠ 0x000 →
    ∃ t, exec (.evStep mode d) s = .next t ∧ (mode = .once → t ≠ s)

/-! ### Bus addresses -/

/-- The interrupt latch and the UART registers: a read is the environment's draw, a write records
itself, and no block state changes (20_memory.md R43, R44, R47, R50; a write of STATUS: log 17). -/
def Obligations.DeviceRowsRecordAccess : Prop :=
  ∀ (s : State) (v : Byte),
    let rd := fun (a : Addr) => Host.Outcome.next (φ := Fault) (ρ := Refusal)
      { s with history := s.history ++ [.rd a v] }
    let wr := fun (a : Addr) => Host.Outcome.next (φ := Fault) (ρ := Refusal)
      { s with history := s.history ++ [.wr a v] }
    exec (.addrIntLatch (.read v)) s = rd 0xF0FF ∧ exec (.addrIntLatch (.write v)) s = wr 0xF0FF ∧
    exec (.addrUartDataRead v) s = rd s.cfg.uartBase ∧
    exec (.addrUartDataWrite v) s = wr s.cfg.uartBase ∧
    exec (.addrUartStatus (.read v)) s = rd (s.cfg.uartBase + 1) ∧
    exec (.addrUartStatus (.write v)) s = wr (s.cfg.uartBase + 1) ∧
    exec (.addrUartCmd (.read v)) s = rd (s.cfg.uartBase + 2) ∧
    exec (.addrUartCmd (.write v)) s = wr (s.cfg.uartBase + 2) ∧
    exec (.addrUartCtrl (.read v)) s = rd (s.cfg.uartBase + 3) ∧
    exec (.addrUartCtrl (.write v)) s = wr (s.cfg.uartBase + 3)

/-- The vector rows read the image bytes of R73, in address order (30_encoding.md R73). -/
def Obligations.VectorRowsReadImage : Prop :=
  ∀ s : State, admitted s.cfg = true →
    let rd := fun (a : Addr) (v : Byte) => Host.Outcome.next (φ := Fault) (ρ := Refusal)
      { s with history := s.history ++ [.rd a v] }
    exec (.addrVecNmi false) s = rd 0xFFFA (lowByte s.cfg.nmiEntry) ∧
    exec (.addrVecNmi true) s = rd 0xFFFB (highByte s.cfg.nmiEntry) ∧
    exec (.addrVecReset false) s = rd 0xFFFC (lowByte s.cfg.resetEntry) ∧
    exec (.addrVecReset true) s = rd 0xFFFD (highByte s.cfg.resetEntry) ∧
    exec (.addrVecIrq false) s = rd 0xFFFE (lowByte s.cfg.dispatchEntry) ∧
    exec (.addrVecIrq true) s = rd 0xFFFF (highByte s.cfg.dispatchEntry)

/-- The jump-table rows read the image bytes of R74: slot 0 two unspecified constants, slots 1 to 6 the
handlers' entries, low byte first (30_encoding.md R74). -/
def Obligations.JumpTableRowsReadImage : Prop :=
  ∀ s : State, admitted s.cfg = true →
    let rd := fun (o : Nat) (v : Byte) => Host.Outcome.next (φ := Fault) (ρ := Refusal)
      { s with history := s.history ++ [.rd (s.cfg.tableBase + BitVec.ofNat 16 o) v] }
    let byteOf := fun (hi : Bool) (j : Addr) => if hi then highByte j else lowByte j
    ∀ hi : Bool,
      (∃ v, exec (.addrJtSlot0 hi) s = rd hi.toNat v ∧
        ∀ t : State, t.cfg = s.cfg → exec (.addrJtSlot0 hi) t = .next { t with
          history := t.history ++ [.rd (s.cfg.tableBase + BitVec.ofNat 16 hi.toNat) v] }) ∧
      exec (.addrJtSlot1 hi) s = rd (2 + hi.toNat) (byteOf hi s.cfg.jt1) ∧
      exec (.addrJtSlot2 hi) s = rd (4 + hi.toNat) (byteOf hi s.cfg.jt2) ∧
      exec (.addrJtSlot3 hi) s = rd (6 + hi.toNat) (byteOf hi s.cfg.jt3) ∧
      exec (.addrJtSlot4 hi) s = rd (8 + hi.toNat) (byteOf hi s.cfg.jt4) ∧
      exec (.addrJtSlot5 hi) s = rd (10 + hi.toNat) (byteOf hi s.cfg.jt5) ∧
      exec (.addrJtSlot6 hi) s = rd (12 + hi.toNat) (byteOf hi s.cfg.jt6)

/-- The banked window, whole: an access uses the page BANK0 holds at that moment; a read returns the
byte known there, or the one the environment supplies, which is known from then on; a page that does
not exist shows a draw on reads, and a write to it is lost; every byte but the one stored or read keeps
its value (20_memory.md R45, R60; log 8). What happens while the selector is unwritten is the model's
choice, no rule's (log 10): a read shows a draw, and a write goes to a free page (70_reset_and_hazards.md
R156 speaks of an unspecified one), where it stores its byte, or is lost if that page does not exist. -/
def Obligations.WindowUsesSelectedPage : Prop :=
  ∀ (s : State) (a : Addr) (v : Byte), addrTarget s.cfg a = .window →
    let shows := fun (w : Byte) => Host.Outcome.next (φ := Fault) (ρ := Refusal)
      { s with history := s.history ++ [.rd a w] }
    let lost := Host.Outcome.next (φ := Fault) (ρ := Refusal)
      { s with history := s.history ++ [.wr a v] }
    let onlyByte := fun (m : Memory) (b : Byte) (u : Byte) => ∀ b' a' w,
      ({ s with mem := m } : State).byteAt (bankedLoc b' a') w =
          (if b' = b ∧ a' = a then u else s.byteAt (bankedLoc b' a') w) ∧
        ({ s with mem := m } : State).byteAt (plainLoc a') w = s.byteAt (plainLoc a') w
    (∀ b, s.bank0 = some b → b.toNat < s.cfg.nBanks →
      (∃ m, exec (.addrWindow a (.read v)) s = .next { s with
          history := s.history ++ [.rd a (s.byteAt (bankedLoc b a) v)], mem := m } ∧
        onlyByte m b (s.byteAt (bankedLoc b a) v)) ∧
      ∃ m, exec (.addrWindow a (.write v)) s =
          .next { s with history := s.history ++ [.wr a v], mem := m } ∧ onlyByte m b v) ∧
    (∀ b, s.bank0 = some b → s.cfg.nBanks ≤ b.toNat →
      exec (.addrWindow a (.read v)) s = shows v ∧ exec (.addrWindow a (.write v)) s = lost) ∧
    (s.bank0 = none →
      exec (.addrWindow a (.read v)) s = shows v ∧
      ((writePage s).toNat < s.cfg.nBanks → ∃ m, exec (.addrWindow a (.write v)) s =
          .next { s with history := s.history ++ [.wr a v], mem := m } ∧
        onlyByte m (writePage s) v) ∧
      (s.cfg.nBanks ≤ (writePage s).toNat → exec (.addrWindow a (.write v)) s = lost))

/-- A program's `rd` or `wr` is the access of the row its address decodes to; plain memory outside the
window reads the byte known there, or the one the line supplies, which is known from then on, and
stores one byte; a write to the image is refused (30_encoding.md R70, R78, 20_memory.md R43, R44, R60;
that a supplied byte is kept as the location's is the model's form of the stable unknown, log 8). -/
def Obligations.ProgramAccessRunsRow : Prop :=
  ∀ (s : State) (a : Addr) (v : Byte), admitted s.cfg = true →
    (∀ i, decodeBus s.cfg a (.read v) = .ok i → exec (.idle [.rd a v]) s = exec i s) ∧
    (∀ i, decodeBus s.cfg a (.write v) = .ok i → exec (.idle [.wr a v]) s = exec i s) ∧
    (addrTarget s.cfg a = .memory →
      (∃ m, exec (.idle [.rd a v]) s = .next { s with
          history := s.history ++ [.rd a (s.byteAt (plainLoc a) v)], mem := m } ∧
        ∀ loc w, ({ s with mem := m } : State).byteAt loc w =
          if loc = plainLoc a then s.byteAt (plainLoc a) v else s.byteAt loc w) ∧
      ∃ m, exec (.idle [.wr a v]) s =
          .next { s with history := s.history ++ [.wr a v], mem := m } ∧
        ∀ loc w, ({ s with mem := m } : State).byteAt loc w =
          if loc = plainLoc a then v else s.byteAt loc w) ∧
    (addrTarget s.cfg a = .vector ∨ addrTarget s.cfg a = .table →
      exec (.idle [.wr a v]) s = .refused (.imageWrite a))

/-! ### The machine as a whole -/

/-- The invariant holds right after reset, under every admitted configuration, and in the machine's
reset state (10_state.md R37, R38). -/
def Obligations.InvariantHoldsAtReset : Prop :=
  (∀ cfg : Cfg, admitted cfg = true → Inv (State.resetOf cfg)) ∧ Inv State.reset

/-- Every step keeps the invariant: R38 (a) to (e), memory in canonical form, SP in its width, the
FAULT phase with a recorded fault (10_state.md R29, R38). -/
def Obligations.StepKeepsInvariant : Prop :=
  ∀ s t : State, Inv s → step s = .next t → Inv t

/-- No step removes or changes an event of the history, and none changes the configuration; a fault
once recorded never goes away (10_state.md R29, R30, 00_scope.md R9). -/
def Obligations.HistoryOnlyGrows : Prop :=
  ∀ s t : State, step s = .next t →
    s.history <+: t.history ∧ t.cfg = s.cfg ∧ s.fault = none

/-- Only the program's steps and reset change the IRQ mask, and only reset clears the break record
(10_state.md R26, R28). -/
def Obligations.MaskAndBreakRecordWriters : Prop :=
  ∀ s t : State, step s = .next t →
    (t.imask ≠ s.imask → s.phase = 0x000 ∨
      (t.imask = true ∧ Event.reset ∈ t.history.drop s.history.length)) ∧
    (s.brkUnimpl = true → t.brkUnimpl = true ∨
      Event.reset ∈ t.history.drop s.history.length) ∧
    (s.brkUnimpl = false → t.brkUnimpl = true →
      s.phase = 0x005 ∧ Event.brkUnimplemented ∈ t.history.drop s.history.length)

/-- The sector counter moves only by one, only at HANDLER(1,0) and only with SECTOR, or by a reset
(44_handlers.md R125). -/
def Obligations.SectorPointerWriters : Prop :=
  ∀ s t : State, step s = .next t → t.sectorPtr ≠ s.sectorPtr →
    s.cfg.sector = true ∧
      ((s.phase = 0x01A ∧ t.phase = 0x00B ∧
          t.sectorPtr.toNat = (s.sectorPtr.toNat + 1) % 65536) ∨
        Event.reset ∈ t.history.drop s.history.length)

/-- Outside the program's steps BANK0 changes only at ENT_BANK_FORCE, to 0, at RST_BANK_WRITE, to the
top frame's bank, and by a reset (41_bankswitch.md R93, R94). -/
def Obligations.BankSelectorWriters : Prop :=
  ∀ s t : State, step s = .next t → s.phase ≠ 0x000 → t.bank0 ≠ s.bank0 →
    (s.phase = 0x004 ∧ t.bank0 = some 0) ∨
      (s.phase = 0x00B ∧ ∃ f rest, s.frames = f :: rest ∧ t.bank0 = some f.bank) ∨
      (t.bank0 = s.cfg.bankReset ∧ Event.reset ∈ t.history.drop s.history.length)

/-- A step leaves the frame stack alone, or empties it by a reset, or pushes one frame at an acceptance
point, or writes the top frame at ENT_SAVE or ENT_BANK_READ, or pops it at RST_RTI: frames below the
top are never touched (60_exceptions.md R145). -/
def Obligations.FramesChangeOnlyOnTop : Prop :=
  ∀ s t : State, step s = .next t →
    t.frames = s.frames ∨
      (t.frames = [] ∧ Event.reset ∈ t.history.drop s.history.length) ∨
      (∃ f, t.frames = f :: s.frames ∧ f.p = s.p ∧ t.phase = 0x001 ∧
        s.frames.length ≠ s.cfg.maxDepth ∧
        (s.phase = 0x000 ∨
          (isHandler s.phase = true ∧ s.cfg.nestEnable = true ∧ s.imask = false ∧
            f.brk = false))) ∨
      (∃ f g rest, s.frames = f :: rest ∧ t.frames = g :: rest ∧
        (s.phase = 0x001 ∨ s.phase = 0x002) ∧ g.ret = f.ret ∧ g.p = f.p ∧ g.brk = f.brk) ∨
      (s.phase = 0x00E ∧ ∃ f, s.frames = f :: t.frames ∧ t.p = f.p)

/-- Bank and context restoration: from a state at IDLE, whatever activations nest and whatever the
devices answer, the state at the end of the activation has BANK0, A, X, Y, P, PC, SP, SSEL, the mask
and memory as they were before its acceptance (10_state.md R39, R40, 45_restore.md R130,
70_reset_and_hazards.md R174), and a program's own `withBank0` goes on from where it was
(41_bankswitch.md R95). -/
def Obligations.ActivationRestoresContext : Prop :=
  ∀ (s t u : State) (n : Nat), Inv s → AtIdle s → step s = .next t → t.phase = 0x001 →
    FirstActivationEnd t n u →
    u.bank0 = s.bank0 ∧ u.a = s.a ∧ u.x = s.x ∧ u.y = s.y ∧ u.p = s.p ∧ u.pc = s.pc ∧
      u.imask = s.imask ∧ u.frames = [] ∧ u.fault = none ∧ u.sp = s.sp ∧ u.ssel = s.ssel ∧
      u.pending = s.pending ∧ ∀ loc w, u.byteAt loc w = s.byteAt loc w

/-- The echo: a serial-0 handler that polls, reads one byte, polls and writes, without nesting, records
exactly one DATA read and one later DATA write of the same byte, with a tx-empty status between
(44_handlers.md R124). -/
def Obligations.SerialEchoRoundTrip : Prop :=
  ∀ (s : State) (rxWait txWait : List Byte) (rxReady txReady r : Byte) (rest : List Line),
    admitted s.cfg = true → s.cfg.maxSpins = none → s.fault = none → s.phase = 0x05A →
    (∀ v ∈ rxWait, v &&& 0x08 = 0) → rxReady &&& 0x08 ≠ 0 →
    (∀ v ∈ txWait, v &&& 0x10 = 0) → txReady &&& 0x10 ≠ 0 →
    let poll := fun (v : Byte) => Line.event 5 { draws := { status := [v] } }
    let lines := (rxWait ++ [rxReady]).map poll ++ [.event 5 { draws := { data := [r] } }] ++
      (txWait ++ [txReady]).map poll ++ [.event 5 {}]
    let status := fun (v : Byte) => Event.rd (s.cfg.uartBase + 1) v
    s.script = lines ++ rest →
    ∃ u, core.run lines.length s = .next u ∧ u.phase = 0x00B ∧ u.pc = s.cfg.restoreEntry ∧
      u.frames = s.frames ∧ u.bank0 = s.bank0 ∧ u.script = rest ∧
      u.history = s.history ++ (rxWait ++ [rxReady]).map status ++ [.rd s.cfg.uartBase r] ++
        (txWait ++ [txReady]).map status ++ [.wr s.cfg.uartBase r]

/-- Zero-fill leaves exactly the ZF_LEN bytes from ZF_BASE at zero, writes them in rising order and
touches no other byte and no other state (70_reset_and_hazards.md R156), where the range is plain
memory that the selector reaches. -/
def Obligations.ZeroFillClearsRange : Prop :=
  ∀ (s : State) (b : Byte), (∀ c, s.bank0 = some c → c = b) →
    (∀ i < s.cfg.zfLen, reaches s (s.cfg.zfBase + BitVec.ofNat 16 i)) →
    ∃ m, exec (.idle (zeroFillOps s.cfg)) s = .next { s with
        history := s.history ++ ((List.range s.cfg.zfLen).map fun i =>
          .wr (s.cfg.zfBase + BitVec.ofNat 16 i) 0x00),
        mem := m } ∧
      (∀ i < s.cfg.zfLen, ∀ w, ({ s with mem := m } : State).byteAt
        (plainByteLoc s.cfg b (s.cfg.zfBase + BitVec.ofNat 16 i)) w = 0x00) ∧
      ∀ loc w, (∀ i < s.cfg.zfLen,
          loc ≠ plainByteLoc s.cfg b (s.cfg.zfBase + BitVec.ofNat 16 i)) →
        ({ s with mem := m } : State).byteAt loc w = s.byteAt loc w

/-- The polled echo loop: over rounds in which both waits end, however long they last, each DATA byte
read is written back exactly once, after a tx-empty status and before the next round's first poll; in a
last round whose receive wait does not end nothing is read or written; the program never leaves IDLE
and nothing else changes (40_serialio.md R88, 70_reset_and_hazards.md R158). -/
def Obligations.PolledEchoLoopEchoes : Prop :=
  ∀ (s : State) (ended : List ((List Byte × Byte) × Byte × (List Byte × Byte)))
    (unended : List Byte) (data : Byte) (tx : List Byte) (rest : List Line),
    admitted s.cfg = true → s.cfg.maxSpins = none → AtIdle s → s.pending = .done →
    (∀ r ∈ ended, (∀ v ∈ r.1.1, v &&& 0x08 = 0) ∧ r.1.2 &&& 0x08 ≠ 0 ∧
      (∀ v ∈ r.2.2.1, v &&& 0x10 = 0) ∧ r.2.2.2 &&& 0x10 ≠ 0) →
    (∀ v ∈ unended, v &&& 0x08 = 0) →
    let rounds := ended.map (fun r => EchoRound.mk (r.1.1 ++ [r.1.2]) r.2.1 (r.2.2.1 ++ [r.2.2.2]))
      ++ [EchoRound.mk unended data tx]
    let status := fun (v : Byte) => Event.rd (s.cfg.uartBase + 1) v
    s.script = echoLines s.cfg rounds ++ rest →
    core.run (echoLines s.cfg rounds).length s = .next { s with
      script := rest, drawCount := s.drawCount + (echoLines s.cfg rounds).length,
      history := s.history ++
        (ended.flatMap fun r => (r.1.1 ++ [r.1.2]).map status ++ [.rd s.cfg.uartBase r.2.1] ++
          (r.2.2.1 ++ [r.2.2.2]).map status ++ [.wr s.cfg.uartBase r.2.1]) ++
        unended.map status }
end

