-- ==== Sys2Proof/Laws/State.lean ====
section
/-! SUPPORT. The fields of a state after each named update: one lemma per field per update, by rfl. -/

namespace Sys2Proof.Machine

/-! ### emit -/
@[simp] theorem emit_cfg (s : State) (e : Event) :
    (s.emit e).cfg = s.cfg := rfl
@[simp] theorem emit_a (s : State) (e : Event) :
    (s.emit e).a = s.a := rfl
@[simp] theorem emit_x (s : State) (e : Event) :
    (s.emit e).x = s.x := rfl
@[simp] theorem emit_y (s : State) (e : Event) :
    (s.emit e).y = s.y := rfl
@[simp] theorem emit_p (s : State) (e : Event) :
    (s.emit e).p = s.p := rfl
@[simp] theorem emit_pc (s : State) (e : Event) :
    (s.emit e).pc = s.pc := rfl
@[simp] theorem emit_sp (s : State) (e : Event) :
    (s.emit e).sp = s.sp := rfl
@[simp] theorem emit_ssel (s : State) (e : Event) :
    (s.emit e).ssel = s.ssel := rfl
@[simp] theorem emit_phase (s : State) (e : Event) :
    (s.emit e).phase = s.phase := rfl
@[simp] theorem emit_off (s : State) (e : Event) :
    (s.emit e).off = s.off := rfl
@[simp] theorem emit_lo (s : State) (e : Event) :
    (s.emit e).lo = s.lo := rfl
@[simp] theorem emit_hi (s : State) (e : Event) :
    (s.emit e).hi = s.hi := rfl
@[simp] theorem emit_rx (s : State) (e : Event) :
    (s.emit e).rx = s.rx := rfl
@[simp] theorem emit_spins (s : State) (e : Event) :
    (s.emit e).spins = s.spins := rfl
@[simp] theorem emit_frames (s : State) (e : Event) :
    (s.emit e).frames = s.frames := rfl
@[simp] theorem emit_bank0 (s : State) (e : Event) :
    (s.emit e).bank0 = s.bank0 := rfl
@[simp] theorem emit_imask (s : State) (e : Event) :
    (s.emit e).imask = s.imask := rfl
@[simp] theorem emit_sectorPtr (s : State) (e : Event) :
    (s.emit e).sectorPtr = s.sectorPtr := rfl
@[simp] theorem emit_brkUnimpl (s : State) (e : Event) :
    (s.emit e).brkUnimpl = s.brkUnimpl := rfl
@[simp] theorem emit_fault (s : State) (e : Event) :
    (s.emit e).fault = s.fault := rfl
@[simp] theorem emit_history (s : State) (e : Event) :
    (s.emit e).history = s.history ++ [e] := rfl
@[simp] theorem emit_mem (s : State) (e : Event) :
    (s.emit e).mem = s.mem := rfl
@[simp] theorem emit_pending (s : State) (e : Event) :
    (s.emit e).pending = s.pending := rfl
@[simp] theorem emit_script (s : State) (e : Event) :
    (s.emit e).script = s.script := rfl
@[simp] theorem emit_drawCount (s : State) (e : Event) :
    (s.emit e).drawCount = s.drawCount := rfl

/-! ### storeByte -/
@[simp] theorem storeByte_cfg (s : State) (loc : Nat) (v : Byte) :
    (s.storeByte loc v).cfg = s.cfg := rfl
@[simp] theorem storeByte_a (s : State) (loc : Nat) (v : Byte) :
    (s.storeByte loc v).a = s.a := rfl
@[simp] theorem storeByte_x (s : State) (loc : Nat) (v : Byte) :
    (s.storeByte loc v).x = s.x := rfl
@[simp] theorem storeByte_y (s : State) (loc : Nat) (v : Byte) :
    (s.storeByte loc v).y = s.y := rfl
@[simp] theorem storeByte_p (s : State) (loc : Nat) (v : Byte) :
    (s.storeByte loc v).p = s.p := rfl
@[simp] theorem storeByte_pc (s : State) (loc : Nat) (v : Byte) :
    (s.storeByte loc v).pc = s.pc := rfl
@[simp] theorem storeByte_sp (s : State) (loc : Nat) (v : Byte) :
    (s.storeByte loc v).sp = s.sp := rfl
@[simp] theorem storeByte_ssel (s : State) (loc : Nat) (v : Byte) :
    (s.storeByte loc v).ssel = s.ssel := rfl
@[simp] theorem storeByte_phase (s : State) (loc : Nat) (v : Byte) :
    (s.storeByte loc v).phase = s.phase := rfl
@[simp] theorem storeByte_off (s : State) (loc : Nat) (v : Byte) :
    (s.storeByte loc v).off = s.off := rfl
@[simp] theorem storeByte_lo (s : State) (loc : Nat) (v : Byte) :
    (s.storeByte loc v).lo = s.lo := rfl
@[simp] theorem storeByte_hi (s : State) (loc : Nat) (v : Byte) :
    (s.storeByte loc v).hi = s.hi := rfl
@[simp] theorem storeByte_rx (s : State) (loc : Nat) (v : Byte) :
    (s.storeByte loc v).rx = s.rx := rfl
@[simp] theorem storeByte_spins (s : State) (loc : Nat) (v : Byte) :
    (s.storeByte loc v).spins = s.spins := rfl
@[simp] theorem storeByte_frames (s : State) (loc : Nat) (v : Byte) :
    (s.storeByte loc v).frames = s.frames := rfl
@[simp] theorem storeByte_bank0 (s : State) (loc : Nat) (v : Byte) :
    (s.storeByte loc v).bank0 = s.bank0 := rfl
@[simp] theorem storeByte_imask (s : State) (loc : Nat) (v : Byte) :
    (s.storeByte loc v).imask = s.imask := rfl
@[simp] theorem storeByte_sectorPtr (s : State) (loc : Nat) (v : Byte) :
    (s.storeByte loc v).sectorPtr = s.sectorPtr := rfl
@[simp] theorem storeByte_brkUnimpl (s : State) (loc : Nat) (v : Byte) :
    (s.storeByte loc v).brkUnimpl = s.brkUnimpl := rfl
@[simp] theorem storeByte_fault (s : State) (loc : Nat) (v : Byte) :
    (s.storeByte loc v).fault = s.fault := rfl
@[simp] theorem storeByte_history (s : State) (loc : Nat) (v : Byte) :
    (s.storeByte loc v).history = s.history := rfl
@[simp] theorem storeByte_mem (s : State) (loc : Nat) (v : Byte) :
    (s.storeByte loc v).mem = Memory.write s.mem loc v := rfl
@[simp] theorem storeByte_pending (s : State) (loc : Nat) (v : Byte) :
    (s.storeByte loc v).pending = s.pending := rfl
@[simp] theorem storeByte_script (s : State) (loc : Nat) (v : Byte) :
    (s.storeByte loc v).script = s.script := rfl
@[simp] theorem storeByte_drawCount (s : State) (loc : Nat) (v : Byte) :
    (s.storeByte loc v).drawCount = s.drawCount := rfl

/-! ### raise -/
@[simp] theorem raise_cfg (s : State) (c : Fault) (info : Nat) :
    (raise s c info).cfg = s.cfg := rfl
@[simp] theorem raise_a (s : State) (c : Fault) (info : Nat) :
    (raise s c info).a = s.a := rfl
@[simp] theorem raise_x (s : State) (c : Fault) (info : Nat) :
    (raise s c info).x = s.x := rfl
@[simp] theorem raise_y (s : State) (c : Fault) (info : Nat) :
    (raise s c info).y = s.y := rfl
@[simp] theorem raise_p (s : State) (c : Fault) (info : Nat) :
    (raise s c info).p = s.p := rfl
@[simp] theorem raise_pc (s : State) (c : Fault) (info : Nat) :
    (raise s c info).pc = s.pc := rfl
@[simp] theorem raise_sp (s : State) (c : Fault) (info : Nat) :
    (raise s c info).sp = s.sp := rfl
@[simp] theorem raise_ssel (s : State) (c : Fault) (info : Nat) :
    (raise s c info).ssel = s.ssel := rfl
@[simp] theorem raise_phase (s : State) (c : Fault) (info : Nat) :
    (raise s c info).phase = faultWord c := rfl
@[simp] theorem raise_off (s : State) (c : Fault) (info : Nat) :
    (raise s c info).off = s.off := rfl
@[simp] theorem raise_lo (s : State) (c : Fault) (info : Nat) :
    (raise s c info).lo = s.lo := rfl
@[simp] theorem raise_hi (s : State) (c : Fault) (info : Nat) :
    (raise s c info).hi = s.hi := rfl
@[simp] theorem raise_rx (s : State) (c : Fault) (info : Nat) :
    (raise s c info).rx = s.rx := rfl
@[simp] theorem raise_spins (s : State) (c : Fault) (info : Nat) :
    (raise s c info).spins = s.spins := rfl
@[simp] theorem raise_frames (s : State) (c : Fault) (info : Nat) :
    (raise s c info).frames = s.frames := rfl
@[simp] theorem raise_bank0 (s : State) (c : Fault) (info : Nat) :
    (raise s c info).bank0 = s.bank0 := rfl
@[simp] theorem raise_imask (s : State) (c : Fault) (info : Nat) :
    (raise s c info).imask = s.imask := rfl
@[simp] theorem raise_sectorPtr (s : State) (c : Fault) (info : Nat) :
    (raise s c info).sectorPtr = s.sectorPtr := rfl
@[simp] theorem raise_brkUnimpl (s : State) (c : Fault) (info : Nat) :
    (raise s c info).brkUnimpl = s.brkUnimpl := rfl
@[simp] theorem raise_fault (s : State) (c : Fault) (info : Nat) :
    (raise s c info).fault = some c := rfl
@[simp] theorem raise_history (s : State) (c : Fault) (info : Nat) :
    (raise s c info).history = s.history ++ [.fault c info] := rfl
@[simp] theorem raise_mem (s : State) (c : Fault) (info : Nat) :
    (raise s c info).mem = s.mem := rfl
@[simp] theorem raise_pending (s : State) (c : Fault) (info : Nat) :
    (raise s c info).pending = s.pending := rfl
@[simp] theorem raise_script (s : State) (c : Fault) (info : Nat) :
    (raise s c info).script = s.script := rfl
@[simp] theorem raise_drawCount (s : State) (c : Fault) (info : Nat) :
    (raise s c info).drawCount = s.drawCount := rfl

/-! ### handlerExit -/
@[simp] theorem handlerExit_cfg (s : State) :
    (handlerExit s).cfg = s.cfg := rfl
@[simp] theorem handlerExit_a (s : State) :
    (handlerExit s).a = s.a := rfl
@[simp] theorem handlerExit_x (s : State) :
    (handlerExit s).x = s.x := rfl
@[simp] theorem handlerExit_y (s : State) :
    (handlerExit s).y = s.y := rfl
@[simp] theorem handlerExit_p (s : State) :
    (handlerExit s).p = s.p := rfl
@[simp] theorem handlerExit_pc (s : State) :
    (handlerExit s).pc = s.cfg.restoreEntry := rfl
@[simp] theorem handlerExit_sp (s : State) :
    (handlerExit s).sp = s.sp := rfl
@[simp] theorem handlerExit_ssel (s : State) :
    (handlerExit s).ssel = s.ssel := rfl
@[simp] theorem handlerExit_phase (s : State) :
    (handlerExit s).phase = phRstBankWrite := rfl
@[simp] theorem handlerExit_off (s : State) :
    (handlerExit s).off = s.off := rfl
@[simp] theorem handlerExit_lo (s : State) :
    (handlerExit s).lo = s.lo := rfl
@[simp] theorem handlerExit_hi (s : State) :
    (handlerExit s).hi = s.hi := rfl
@[simp] theorem handlerExit_rx (s : State) :
    (handlerExit s).rx = s.rx := rfl
@[simp] theorem handlerExit_spins (s : State) :
    (handlerExit s).spins = s.spins := rfl
@[simp] theorem handlerExit_frames (s : State) :
    (handlerExit s).frames = s.frames := rfl
@[simp] theorem handlerExit_bank0 (s : State) :
    (handlerExit s).bank0 = s.bank0 := rfl
@[simp] theorem handlerExit_imask (s : State) :
    (handlerExit s).imask = s.imask := rfl
@[simp] theorem handlerExit_sectorPtr (s : State) :
    (handlerExit s).sectorPtr = s.sectorPtr := rfl
@[simp] theorem handlerExit_brkUnimpl (s : State) :
    (handlerExit s).brkUnimpl = s.brkUnimpl := rfl
@[simp] theorem handlerExit_fault (s : State) :
    (handlerExit s).fault = s.fault := rfl
@[simp] theorem handlerExit_history (s : State) :
    (handlerExit s).history = s.history := rfl
@[simp] theorem handlerExit_mem (s : State) :
    (handlerExit s).mem = s.mem := rfl
@[simp] theorem handlerExit_pending (s : State) :
    (handlerExit s).pending = s.pending := rfl
@[simp] theorem handlerExit_script (s : State) :
    (handlerExit s).script = s.script := rfl
@[simp] theorem handlerExit_drawCount (s : State) :
    (handlerExit s).drawCount = s.drawCount := rfl

/-! ### acceptInterrupt -/
@[simp] theorem acceptInterrupt_cfg (s : State) (e : Event) (ret : Position) (brk : Bool) :
    (acceptInterrupt s e ret brk).cfg = s.cfg := rfl
@[simp] theorem acceptInterrupt_a (s : State) (e : Event) (ret : Position) (brk : Bool) :
    (acceptInterrupt s e ret brk).a = s.a := rfl
@[simp] theorem acceptInterrupt_x (s : State) (e : Event) (ret : Position) (brk : Bool) :
    (acceptInterrupt s e ret brk).x = s.x := rfl
@[simp] theorem acceptInterrupt_y (s : State) (e : Event) (ret : Position) (brk : Bool) :
    (acceptInterrupt s e ret brk).y = s.y := rfl
@[simp] theorem acceptInterrupt_p (s : State) (e : Event) (ret : Position) (brk : Bool) :
    (acceptInterrupt s e ret brk).p = s.p := rfl
@[simp] theorem acceptInterrupt_pc (s : State) (e : Event) (ret : Position) (brk : Bool) :
    (acceptInterrupt s e ret brk).pc = word16 (vectorByte s.cfg (irqVector + 1)) (vectorByte s.cfg irqVector) := rfl
@[simp] theorem acceptInterrupt_sp (s : State) (e : Event) (ret : Position) (brk : Bool) :
    (acceptInterrupt s e ret brk).sp = s.sp := rfl
@[simp] theorem acceptInterrupt_ssel (s : State) (e : Event) (ret : Position) (brk : Bool) :
    (acceptInterrupt s e ret brk).ssel = s.ssel := rfl
@[simp] theorem acceptInterrupt_phase (s : State) (e : Event) (ret : Position) (brk : Bool) :
    (acceptInterrupt s e ret brk).phase = phEntSave := rfl
@[simp] theorem acceptInterrupt_off (s : State) (e : Event) (ret : Position) (brk : Bool) :
    (acceptInterrupt s e ret brk).off = s.off := rfl
@[simp] theorem acceptInterrupt_lo (s : State) (e : Event) (ret : Position) (brk : Bool) :
    (acceptInterrupt s e ret brk).lo = s.lo := rfl
@[simp] theorem acceptInterrupt_hi (s : State) (e : Event) (ret : Position) (brk : Bool) :
    (acceptInterrupt s e ret brk).hi = s.hi := rfl
@[simp] theorem acceptInterrupt_rx (s : State) (e : Event) (ret : Position) (brk : Bool) :
    (acceptInterrupt s e ret brk).rx = s.rx := rfl
@[simp] theorem acceptInterrupt_spins (s : State) (e : Event) (ret : Position) (brk : Bool) :
    (acceptInterrupt s e ret brk).spins = s.spins := rfl
@[simp] theorem acceptInterrupt_frames (s : State) (e : Event) (ret : Position) (brk : Bool) :
    (acceptInterrupt s e ret brk).frames = newFrame s ret brk :: s.frames := rfl
@[simp] theorem acceptInterrupt_bank0 (s : State) (e : Event) (ret : Position) (brk : Bool) :
    (acceptInterrupt s e ret brk).bank0 = s.bank0 := rfl
@[simp] theorem acceptInterrupt_imask (s : State) (e : Event) (ret : Position) (brk : Bool) :
    (acceptInterrupt s e ret brk).imask = s.imask := rfl
@[simp] theorem acceptInterrupt_sectorPtr (s : State) (e : Event) (ret : Position) (brk : Bool) :
    (acceptInterrupt s e ret brk).sectorPtr = s.sectorPtr := rfl
@[simp] theorem acceptInterrupt_brkUnimpl (s : State) (e : Event) (ret : Position) (brk : Bool) :
    (acceptInterrupt s e ret brk).brkUnimpl = s.brkUnimpl := rfl
@[simp] theorem acceptInterrupt_fault (s : State) (e : Event) (ret : Position) (brk : Bool) :
    (acceptInterrupt s e ret brk).fault = s.fault := rfl
@[simp] theorem acceptInterrupt_history (s : State) (e : Event) (ret : Position) (brk : Bool) :
    (acceptInterrupt s e ret brk).history = s.history ++ [e] ++ [.rd irqVector (vectorByte s.cfg irqVector)] ++
      [.rd (irqVector + 1) (vectorByte s.cfg (irqVector + 1))] := rfl
@[simp] theorem acceptInterrupt_mem (s : State) (e : Event) (ret : Position) (brk : Bool) :
    (acceptInterrupt s e ret brk).mem = s.mem := rfl
@[simp] theorem acceptInterrupt_pending (s : State) (e : Event) (ret : Position) (brk : Bool) :
    (acceptInterrupt s e ret brk).pending = s.pending := rfl
@[simp] theorem acceptInterrupt_script (s : State) (e : Event) (ret : Position) (brk : Bool) :
    (acceptInterrupt s e ret brk).script = s.script := rfl
@[simp] theorem acceptInterrupt_drawCount (s : State) (e : Event) (ret : Position) (brk : Bool) :
    (acceptInterrupt s e ret brk).drawCount = s.drawCount := rfl

/-! ### fetchVector -/
@[simp] theorem fetchVector_cfg (s : State) (base : Addr) :
    ((fetchVector s base).2).cfg = s.cfg := rfl
@[simp] theorem fetchVector_a (s : State) (base : Addr) :
    ((fetchVector s base).2).a = s.a := rfl
@[simp] theorem fetchVector_x (s : State) (base : Addr) :
    ((fetchVector s base).2).x = s.x := rfl
@[simp] theorem fetchVector_y (s : State) (base : Addr) :
    ((fetchVector s base).2).y = s.y := rfl
@[simp] theorem fetchVector_p (s : State) (base : Addr) :
    ((fetchVector s base).2).p = s.p := rfl
@[simp] theorem fetchVector_pc (s : State) (base : Addr) :
    ((fetchVector s base).2).pc = s.pc := rfl
@[simp] theorem fetchVector_sp (s : State) (base : Addr) :
    ((fetchVector s base).2).sp = s.sp := rfl
@[simp] theorem fetchVector_ssel (s : State) (base : Addr) :
    ((fetchVector s base).2).ssel = s.ssel := rfl
@[simp] theorem fetchVector_phase (s : State) (base : Addr) :
    ((fetchVector s base).2).phase = s.phase := rfl
@[simp] theorem fetchVector_off (s : State) (base : Addr) :
    ((fetchVector s base).2).off = s.off := rfl
@[simp] theorem fetchVector_lo (s : State) (base : Addr) :
    ((fetchVector s base).2).lo = s.lo := rfl
@[simp] theorem fetchVector_hi (s : State) (base : Addr) :
    ((fetchVector s base).2).hi = s.hi := rfl
@[simp] theorem fetchVector_rx (s : State) (base : Addr) :
    ((fetchVector s base).2).rx = s.rx := rfl
@[simp] theorem fetchVector_spins (s : State) (base : Addr) :
    ((fetchVector s base).2).spins = s.spins := rfl
@[simp] theorem fetchVector_frames (s : State) (base : Addr) :
    ((fetchVector s base).2).frames = s.frames := rfl
@[simp] theorem fetchVector_bank0 (s : State) (base : Addr) :
    ((fetchVector s base).2).bank0 = s.bank0 := rfl
@[simp] theorem fetchVector_imask (s : State) (base : Addr) :
    ((fetchVector s base).2).imask = s.imask := rfl
@[simp] theorem fetchVector_sectorPtr (s : State) (base : Addr) :
    ((fetchVector s base).2).sectorPtr = s.sectorPtr := rfl
@[simp] theorem fetchVector_brkUnimpl (s : State) (base : Addr) :
    ((fetchVector s base).2).brkUnimpl = s.brkUnimpl := rfl
@[simp] theorem fetchVector_fault (s : State) (base : Addr) :
    ((fetchVector s base).2).fault = s.fault := rfl
@[simp] theorem fetchVector_history (s : State) (base : Addr) :
    ((fetchVector s base).2).history = s.history ++ [.rd base (vectorByte s.cfg base)] ++
      [.rd (base + 1) (vectorByte s.cfg (base + 1))] := rfl
@[simp] theorem fetchVector_mem (s : State) (base : Addr) :
    ((fetchVector s base).2).mem = s.mem := rfl
@[simp] theorem fetchVector_pending (s : State) (base : Addr) :
    ((fetchVector s base).2).pending = s.pending := rfl
@[simp] theorem fetchVector_script (s : State) (base : Addr) :
    ((fetchVector s base).2).script = s.script := rfl
@[simp] theorem fetchVector_drawCount (s : State) (base : Addr) :
    ((fetchVector s base).2).drawCount = s.drawCount := rfl

/-! ### resetState -/
@[simp] theorem resetState_cfg (d : ResetDraws) (s : State) :
    (resetState d s).cfg = s.cfg := rfl
@[simp] theorem resetState_a (d : ResetDraws) (s : State) :
    (resetState d s).a = d.a.getD (Config.freeByte s.drawCount 5) := rfl
@[simp] theorem resetState_x (d : ResetDraws) (s : State) :
    (resetState d s).x = d.x.getD (Config.freeByte s.drawCount 6) := rfl
@[simp] theorem resetState_y (d : ResetDraws) (s : State) :
    (resetState d s).y = d.y.getD (Config.freeByte s.drawCount 7) := rfl
@[simp] theorem resetState_p (d : ResetDraws) (s : State) :
    (resetState d s).p = d.p.getD (Config.freeByte s.drawCount 8) := rfl
@[simp] theorem resetState_pc (d : ResetDraws) (s : State) :
    (resetState d s).pc = word16 (vectorByte s.cfg (resetVector + 1)) (vectorByte s.cfg resetVector) := rfl
@[simp] theorem resetState_sp (d : ResetDraws) (s : State) :
    (resetState d s).sp = d.sp.getD (Config.freeNat s.drawCount 9) % 2 ^ s.cfg.spW := rfl
@[simp] theorem resetState_ssel (d : ResetDraws) (s : State) :
    (resetState d s).ssel = .user := rfl
@[simp] theorem resetState_phase (d : ResetDraws) (s : State) :
    (resetState d s).phase = phIdle := rfl
@[simp] theorem resetState_off (d : ResetDraws) (s : State) :
    (resetState d s).off = Config.freeByte s.drawCount 0 := rfl
@[simp] theorem resetState_lo (d : ResetDraws) (s : State) :
    (resetState d s).lo = Config.freeByte s.drawCount 1 := rfl
@[simp] theorem resetState_hi (d : ResetDraws) (s : State) :
    (resetState d s).hi = Config.freeByte s.drawCount 2 := rfl
@[simp] theorem resetState_rx (d : ResetDraws) (s : State) :
    (resetState d s).rx = Config.freeByte s.drawCount 3 := rfl
@[simp] theorem resetState_spins (d : ResetDraws) (s : State) :
    (resetState d s).spins = Config.freeNat s.drawCount 4 := rfl
@[simp] theorem resetState_frames (d : ResetDraws) (s : State) :
    (resetState d s).frames = [] := rfl
@[simp] theorem resetState_bank0 (d : ResetDraws) (s : State) :
    (resetState d s).bank0 = s.cfg.bankReset := rfl
@[simp] theorem resetState_imask (d : ResetDraws) (s : State) :
    (resetState d s).imask = true := rfl
@[simp] theorem resetState_sectorPtr (d : ResetDraws) (s : State) :
    (resetState d s).sectorPtr =
      if s.cfg.sector then d.sector.getD (BitVec.ofNat 16 (Config.freeNat s.drawCount 10))
      else s.sectorPtr := rfl
@[simp] theorem resetState_brkUnimpl (d : ResetDraws) (s : State) :
    (resetState d s).brkUnimpl = false := rfl
@[simp] theorem resetState_fault (d : ResetDraws) (s : State) :
    (resetState d s).fault = s.fault := rfl
@[simp] theorem resetState_history (d : ResetDraws) (s : State) :
    (resetState d s).history = s.history ++ [.reset] ++ [.rd resetVector (vectorByte s.cfg resetVector)] ++
      [.rd (resetVector + 1) (vectorByte s.cfg (resetVector + 1))] := rfl
@[simp] theorem resetState_mem (d : ResetDraws) (s : State) :
    (resetState d s).mem = [] := rfl
@[simp] theorem resetState_pending (d : ResetDraws) (s : State) :
    (resetState d s).pending = .done := rfl
@[simp] theorem resetState_script (d : ResetDraws) (s : State) :
    (resetState d s).script = s.script := rfl
@[simp] theorem resetState_drawCount (d : ResetDraws) (s : State) :
    (resetState d s).drawCount = s.drawCount := rfl

/-! ### learnByte and afterRead: a read changes plain memory only -/
/-- Fixing a byte changes nothing but memory. -/
theorem learnByte_eq (s : State) (loc : Nat) (v : Byte) :
    s.learnByte loc v = { s with mem := (s.learnByte loc v).mem } := by
  unfold State.learnByte
  split <;> rfl

/-- A read leaves everything but memory as it was. -/
theorem afterRead_eq (s : State) (t : Target) (a : Addr) (d : Byte) :
    afterRead s t a d = { s with mem := (afterRead s t a d).mem } := by
  unfold afterRead
  split
  · exact learnByte_eq s _ d
  · rfl

@[simp] theorem afterRead_cfg (s : State) (t : Target) (a : Addr) (d : Byte) :
    (afterRead s t a d).cfg = s.cfg := by rw [afterRead_eq]
@[simp] theorem afterRead_a (s : State) (t : Target) (a : Addr) (d : Byte) :
    (afterRead s t a d).a = s.a := by rw [afterRead_eq]
@[simp] theorem afterRead_x (s : State) (t : Target) (a : Addr) (d : Byte) :
    (afterRead s t a d).x = s.x := by rw [afterRead_eq]
@[simp] theorem afterRead_y (s : State) (t : Target) (a : Addr) (d : Byte) :
    (afterRead s t a d).y = s.y := by rw [afterRead_eq]
@[simp] theorem afterRead_p (s : State) (t : Target) (a : Addr) (d : Byte) :
    (afterRead s t a d).p = s.p := by rw [afterRead_eq]
@[simp] theorem afterRead_pc (s : State) (t : Target) (a : Addr) (d : Byte) :
    (afterRead s t a d).pc = s.pc := by rw [afterRead_eq]
@[simp] theorem afterRead_sp (s : State) (t : Target) (a : Addr) (d : Byte) :
    (afterRead s t a d).sp = s.sp := by rw [afterRead_eq]
@[simp] theorem afterRead_ssel (s : State) (t : Target) (a : Addr) (d : Byte) :
    (afterRead s t a d).ssel = s.ssel := by rw [afterRead_eq]
@[simp] theorem afterRead_phase (s : State) (t : Target) (a : Addr) (d : Byte) :
    (afterRead s t a d).phase = s.phase := by rw [afterRead_eq]
@[simp] theorem afterRead_off (s : State) (t : Target) (a : Addr) (d : Byte) :
    (afterRead s t a d).off = s.off := by rw [afterRead_eq]
@[simp] theorem afterRead_lo (s : State) (t : Target) (a : Addr) (d : Byte) :
    (afterRead s t a d).lo = s.lo := by rw [afterRead_eq]
@[simp] theorem afterRead_hi (s : State) (t : Target) (a : Addr) (d : Byte) :
    (afterRead s t a d).hi = s.hi := by rw [afterRead_eq]
@[simp] theorem afterRead_rx (s : State) (t : Target) (a : Addr) (d : Byte) :
    (afterRead s t a d).rx = s.rx := by rw [afterRead_eq]
@[simp] theorem afterRead_spins (s : State) (t : Target) (a : Addr) (d : Byte) :
    (afterRead s t a d).spins = s.spins := by rw [afterRead_eq]
@[simp] theorem afterRead_frames (s : State) (t : Target) (a : Addr) (d : Byte) :
    (afterRead s t a d).frames = s.frames := by rw [afterRead_eq]
@[simp] theorem afterRead_bank0 (s : State) (t : Target) (a : Addr) (d : Byte) :
    (afterRead s t a d).bank0 = s.bank0 := by rw [afterRead_eq]
@[simp] theorem afterRead_imask (s : State) (t : Target) (a : Addr) (d : Byte) :
    (afterRead s t a d).imask = s.imask := by rw [afterRead_eq]
@[simp] theorem afterRead_sectorPtr (s : State) (t : Target) (a : Addr) (d : Byte) :
    (afterRead s t a d).sectorPtr = s.sectorPtr := by rw [afterRead_eq]
@[simp] theorem afterRead_brkUnimpl (s : State) (t : Target) (a : Addr) (d : Byte) :
    (afterRead s t a d).brkUnimpl = s.brkUnimpl := by rw [afterRead_eq]
@[simp] theorem afterRead_fault (s : State) (t : Target) (a : Addr) (d : Byte) :
    (afterRead s t a d).fault = s.fault := by rw [afterRead_eq]
@[simp] theorem afterRead_history (s : State) (t : Target) (a : Addr) (d : Byte) :
    (afterRead s t a d).history = s.history := by rw [afterRead_eq]
@[simp] theorem afterRead_pending (s : State) (t : Target) (a : Addr) (d : Byte) :
    (afterRead s t a d).pending = s.pending := by rw [afterRead_eq]
@[simp] theorem afterRead_script (s : State) (t : Target) (a : Addr) (d : Byte) :
    (afterRead s t a d).script = s.script := by rw [afterRead_eq]
@[simp] theorem afterRead_drawCount (s : State) (t : Target) (a : Addr) (d : Byte) :
    (afterRead s t a d).drawCount = s.drawCount := by rw [afterRead_eq]

/-- A read of a register or of the image fixes no byte of memory. -/
@[simp] theorem afterRead_bank0Target (s : State) (a : Addr) (d : Byte) :
    afterRead s .bank0 a d = s := rfl
@[simp] theorem afterRead_intLatch (s : State) (a : Addr) (d : Byte) :
    afterRead s .intLatch a d = s := rfl
@[simp] theorem afterRead_vector (s : State) (a : Addr) (d : Byte) :
    afterRead s .vector a d = s := rfl
@[simp] theorem afterRead_table (s : State) (a : Addr) (d : Byte) :
    afterRead s .table a d = s := rfl
@[simp] theorem afterRead_uart (s : State) (a : Addr) (d : Byte) :
    afterRead s .uart a d = s := rfl

/-! ### precise: what a raised fault leaves of a step -/
@[simp] theorem precise_go (s t : State) : precise s (.go t) = .go t := rfl
@[simp] theorem precise_raised (s t : State) : precise s (.raised t) =
    .raised { s with history := t.history, fault := t.fault, phase := t.phase, spins := t.spins } := rfl
@[simp] theorem precise_refused (s : State) (r : Refusal) : precise s (.refused r) = .refused r := rfl

end Sys2Proof.Machine
end

