-- ==== Sys2Proof/Laws/Memory.lean ====
section
/-! SUPPORT. Plain memory: a read after a write, and the canonical form kept by every operation. -/

namespace Sys2Proof.Machine

/-- Reading a location that was just written gives the byte written. -/
@[simp] theorem lookup_write_same (m : Memory) (loc : Nat) (v : Byte) :
    Memory.lookup (Memory.write m loc v) loc = some v := by
  induction m with
  | nil => simp [Memory.write, Memory.lookup]
  | cons c rest ih =>
    obtain ⟨k, w⟩ := c
    simp only [Memory.write]
    split
    · simp [Memory.lookup]
    · split
      · simp [Memory.lookup]
      · rename_i h
        simp [Memory.lookup, ih, Ne.symm h]

/-- Writing a location leaves every other one alone. -/
theorem lookup_write_other (m : Memory) (loc loc' : Nat) (v : Byte) (h : loc' ≠ loc) :
    Memory.lookup (Memory.write m loc v) loc' = Memory.lookup m loc' := by
  induction m with
  | nil => simp [Memory.write, Memory.lookup, Ne.symm h]
  | cons c rest ih =>
    obtain ⟨k, w⟩ := c
    simp only [Memory.write]
    split
    · simp [Memory.lookup, Ne.symm h]
    · split
      · rename_i hk
        subst hk
        simp [Memory.lookup, Ne.symm h]
      · simp [Memory.lookup, ih]

/-- The locations of a memory in canonical form are above a bound: what an insertion needs. -/
def Memory.above (k : Nat) (m : Memory) : Prop := ∀ c ∈ m, k < c.1

theorem wf_cons_iff (k : Nat) (v : Byte) (m : Memory) :
    Memory.wf ((k, v) :: m) = true ↔ Memory.above k m ∧ Memory.wf m = true := by
  induction m generalizing k v with
  | nil => simp [Memory.wf, Memory.above]
  | cons c rest ih =>
    obtain ⟨k', v'⟩ := c
    rw [Memory.wf, Bool.and_eq_true, decide_eq_true_iff]
    constructor
    · rintro ⟨hk, hw⟩
      refine ⟨?_, hw⟩
      intro c hc
      rcases List.mem_cons.mp hc with rfl | hc
      · exact hk
      · exact lt_trans hk (((ih k' v').mp hw).1 c hc)
    · rintro ⟨ha, hw⟩
      exact ⟨ha (k', v') (by simp), hw⟩

theorem above_write (k : Nat) (m : Memory) (loc : Nat) (v : Byte) (h : Memory.above k m)
    (hl : k < loc) : Memory.above k (Memory.write m loc v) := by
  induction m with
  | nil => intro c hc; simp [Memory.write] at hc; simp [hc, hl]
  | cons c rest ih =>
    obtain ⟨k', v'⟩ := c
    have hk' : k < k' := h (k', v') (by simp)
    have hrest : Memory.above k rest := fun c hc => h c (List.mem_cons_of_mem _ hc)
    simp only [Memory.write]
    split
    · intro c hc
      rcases List.mem_cons.mp hc with rfl | hc
      · exact hl
      · exact h c hc
    · split
      · intro c hc
        rcases List.mem_cons.mp hc with rfl | hc
        · exact hl
        · exact hrest c hc
      · intro c hc
        rcases List.mem_cons.mp hc with rfl | hc
        · exact hk'
        · exact ih hrest c hc

/-- Every write keeps the canonical form. -/
theorem write_keeps_wf (m : Memory) (loc : Nat) (v : Byte) (h : Memory.wf m = true) :
    Memory.wf (Memory.write m loc v) = true := by
  induction m with
  | nil => simp [Memory.write, Memory.wf]
  | cons c rest ih =>
    obtain ⟨k, w⟩ := c
    obtain ⟨ha, hw⟩ := (wf_cons_iff k w rest).mp h
    simp only [Memory.write]
    split
    · rename_i hlt
      refine (wf_cons_iff _ _ _).mpr ⟨?_, h⟩
      intro c hc
      rcases List.mem_cons.mp hc with rfl | hc
      · exact hlt
      · exact lt_trans hlt (ha c hc)
    · split
      · rename_i heq
        subst heq
        exact (wf_cons_iff _ _ _).mpr ⟨ha, hw⟩
      · rename_i hlt hne
        exact (wf_cons_iff _ _ _).mpr ⟨above_write k rest loc v ha (by omega), ih hw⟩

/-- The byte read after a store: the stored one at its location, every other as before. -/
theorem byteAt_storeByte (s : State) (loc loc' : Nat) (v w : Byte) :
    (s.storeByte loc v).byteAt loc' w = if loc' = loc then v else s.byteAt loc' w := by
  by_cases h : loc' = loc
  · subst h; simp [State.byteAt]
  · simp [State.byteAt, lookup_write_other _ _ _ _ h, h]

/-- An event changes no byte. -/
@[simp] theorem byteAt_emit (s : State) (e : Event) (loc : Nat) (w : Byte) :
    (s.emit e).byteAt loc w = s.byteAt loc w := rfl

/-- The byte read after a read: the one it returned at its location, every other as before
(20_memory.md R60). -/
theorem byteAt_learnByte (s : State) (loc loc' : Nat) (v w : Byte) :
    (s.learnByte loc v).byteAt loc' w = if loc' = loc then s.byteAt loc v else s.byteAt loc' w := by
  cases hl : Memory.lookup s.mem loc with
  | some u =>
    by_cases h : loc' = loc
    · subst h; simp [State.learnByte, State.byteAt, hl]
    · simp [State.learnByte, hl, h]
  | none =>
    have h1 : s.learnByte loc v = s.storeByte loc v := by simp [State.learnByte, hl]
    have h2 : s.byteAt loc v = v := by simp [State.byteAt, hl]
    rw [h1, byteAt_storeByte, h2]

/-- Fixing a byte leaves the bytes already known as they are. -/
theorem lookup_learnByte_of_known {s : State} {loc : Nat} {v : Byte} (loc' : Nat) (w : Byte)
    (h : Memory.lookup s.mem loc = some v) :
    Memory.lookup (s.learnByte loc' w).mem loc = some v := by
  unfold State.learnByte
  split
  · exact h
  · rename_i hn
    have hne : loc ≠ loc' := by rintro rfl; simp [h] at hn
    rw [storeByte_mem, lookup_write_other _ _ _ _ hne, h]

/-- A read keeps the canonical form. -/
theorem afterRead_keeps_wf (s : State) (t : Target) (a : Addr) (d : Byte)
    (h : Memory.wf s.mem = true) : Memory.wf (afterRead s t a d).mem = true := by
  unfold afterRead
  split
  · unfold State.learnByte
    split
    · exact h
    · exact write_keeps_wf _ _ _ h
  · exact h

/-- Two bytes of the window share a location only if page and address agree (20_memory.md R45). -/
theorem bankedLoc_injective (b b' : Byte) (a a' : Addr) :
    bankedLoc b a = bankedLoc b' a' ↔ b = b' ∧ a = a' := by
  constructor
  · intro h
    have ha := a.isLt
    have ha' := a'.isLt
    unfold bankedLoc at h
    constructor
    · apply BitVec.eq_of_toNat_eq; omega
    · apply BitVec.eq_of_toNat_eq; omega
  · rintro ⟨rfl, rfl⟩; rfl

/-- No byte of the window shares a location with unbanked memory. -/
theorem bankedLoc_ne_plainLoc (b : Byte) (a a' : Addr) : bankedLoc b a ≠ plainLoc a' := by
  have hb := b.isLt
  have ha := a.isLt
  unfold bankedLoc plainLoc
  omega

theorem plainLoc_injective (a a' : Addr) : plainLoc a = plainLoc a' ↔ a = a' := by
  constructor
  · intro h
    apply BitVec.eq_of_toNat_eq
    unfold plainLoc at h
    omega
  · rintro rfl; rfl

end Sys2Proof.Machine
end

