-- ==== Sys2Proof/Laws/AddressMap.lean ====
section
/-! SUPPORT. What the fixed, table and UART addresses select: the address map of an admitted
configuration (00_scope.md R10, 30_encoding.md R70). -/

namespace Sys2Proof.Machine

@[simp] theorem addrTarget_bank0Addr (cfg : Cfg) : addrTarget cfg bank0Addr = .bank0 := rfl

@[simp] theorem addrTarget_latchAddr (cfg : Cfg) : addrTarget cfg latchAddr = .intLatch := rfl

/-- Taking the base off an address built on it. -/
theorem add_sub_cancel_left' (a b : Addr) : a + b - a = b := by
  rw [BitVec.add_comm, BitVec.add_sub_cancel]

/-- Every address from $FFFA up is a vector byte. -/
theorem addrTarget_vector (cfg : Cfg) (a : Addr) (h : inVectors a = true) :
    addrTarget cfg a = .vector := by
  have h1 : a ≠ bank0Addr := by rintro rfl; revert h; decide
  have h2 : a ≠ latchAddr := by rintro rfl; revert h; decide
  simp [addrTarget, h1, h2, h]

theorem inVectors_vectorAddr (hi : Bool) :
    inVectors (vectorAddr nmiVector hi) = true ∧ inVectors (vectorAddr resetVector hi) = true ∧
      inVectors (vectorAddr irqVector hi) = true := by
  cases hi <;> decide

/-- An address is one of the fixed ones exactly when it is $F000, $F0FF or a vector byte. -/
theorem mem_fixedAddrs_iff (a : Addr) :
    a ∈ fixedAddrs ↔ a = bank0Addr ∨ a = latchAddr ∨ inVectors a = true := by
  simp only [fixedAddrs, List.mem_cons, List.not_mem_nil, or_false]
  constructor
  · rintro (rfl | rfl | rfl | rfl | rfl | rfl | rfl | rfl) <;> decide
  · rintro (h | h | h)
    · simp [h]
    · simp [h]
    · have := a.isLt
      have h' : 65530 ≤ a.toNat := by
        simpa [inVectors, BitVec.le_def, nmiVector] using h
      have : a.toNat = 65530 ∨ a.toNat = 65531 ∨ a.toNat = 65532 ∨ a.toNat = 65533 ∨
          a.toNat = 65534 ∨ a.toNat = 65535 := by omega
      rcases this with h | h | h | h | h | h <;>
        (have h2 : a = BitVec.ofNat 16 a.toNat := by simp
         rw [h] at h2; subst h2; simp)

/-- A UART register number is the offset of its address. -/
theorem inUart_iff (cfg : Cfg) (a : Addr) : inUart cfg a = true ↔ a ∈ uartAddrs cfg := by
  simp only [uartAddrs, uartData, uartStatus, uartCmd, uartCtrl, List.mem_cons, List.not_mem_nil,
    or_false]
  constructor
  · intro h
    have h : (a - cfg.uartBase).toNat < 4 := of_decide_eq_true h
    have h2 : a = cfg.uartBase + BitVec.ofNat 16 (a - cfg.uartBase).toNat := by
      rw [BitVec.ofNat_toNat, BitVec.setWidth_eq, BitVec.add_comm, BitVec.sub_add_cancel]
    have h3 : (a - cfg.uartBase).toNat = 0 ∨ (a - cfg.uartBase).toNat = 1 ∨
        (a - cfg.uartBase).toNat = 2 ∨ (a - cfg.uartBase).toNat = 3 := by omega
    rcases h3 with h3 | h3 | h3 | h3 <;> rw [h3] at h2
    · left; simpa using h2
    · right; left; simpa using h2
    · right; right; left; simpa using h2
    · right; right; right; simpa using h2
  · rintro (rfl | rfl | rfl | rfl) <;> simp [inUart, uartOffset]

/-- In an admitted configuration the UART block is apart from every earlier test of R70. -/
theorem addrTarget_uart (cfg : Cfg) (h : admitted cfg = true) (a : Addr) (ha : a ∈ uartAddrs cfg) :
    addrTarget cfg a = .uart := by
  simp only [admitted, Bool.and_eq_true, blocksApart, List.all_eq_true, List.mem_append,
    Bool.not_eq_true', List.contains_eq_mem, decide_eq_false_iff_not] at h
  obtain ⟨⟨_, hT, hF⟩, _⟩ := h
  have h1 := hF a ha
  rw [mem_fixedAddrs_iff] at h1
  push Not at h1
  have h2 := hT a (Or.inr ha)
  have h3 := (inUart_iff cfg a).mpr ha
  simp [addrTarget, h1, h2, h3]

/-- In an admitted configuration the jump table is apart from the fixed addresses. -/
theorem addrTarget_table (cfg : Cfg) (h : admitted cfg = true) (a : Addr)
    (ha : inTable cfg a = true) : addrTarget cfg a = .table := by
  simp only [admitted, Bool.and_eq_true, blocksApart, List.all_eq_true, List.mem_append,
    Bool.not_eq_true', List.contains_eq_mem, decide_eq_false_iff_not] at h
  obtain ⟨⟨_, hT, _⟩, _⟩ := h
  have h1 : a ∉ fixedAddrs := fun hc => by simp [hT a (Or.inl hc)] at ha
  rw [mem_fixedAddrs_iff] at h1
  push Not at h1
  simp [addrTarget, h1, ha]

@[simp] theorem addrTarget_uartStatus (cfg : Cfg) (h : admitted cfg = true) :
    addrTarget cfg (uartStatus cfg) = .uart :=
  addrTarget_uart cfg h _ (by simp [uartAddrs])

@[simp] theorem addrTarget_uartData (cfg : Cfg) (h : admitted cfg = true) :
    addrTarget cfg (uartData cfg) = .uart :=
  addrTarget_uart cfg h _ (by simp [uartAddrs])

@[simp] theorem tableOffset_slotAddr (cfg : Cfg) (k : Nat) (hi : Bool) (hk : k < 7) :
    tableOffset cfg (slotAddr cfg k hi) = 2 * k + hi.toNat := by
  have : hi.toNat ≤ 1 := Bool.toNat_le hi
  simp only [tableOffset, slotAddr]
  rw [add_sub_cancel_left', BitVec.toNat_ofNat]
  omega

/-- In an admitted configuration a slot's bytes are in the table. -/
theorem addrTarget_slotAddr (cfg : Cfg) (h : admitted cfg = true) (k : Nat) (hi : Bool)
    (hk : k < 7) : addrTarget cfg (slotAddr cfg k hi) = .table := by
  refine addrTarget_table cfg h _ ?_
  have : hi.toNat ≤ 1 := Bool.toNat_le hi
  simp only [inTable, tableOffset_slotAddr cfg k hi hk, decide_eq_true_eq]
  omega

/-- What R10 (a) says of the vector bytes: each vector spells its entry. -/
theorem vectors_spell (cfg : Cfg) (h : admitted cfg = true) :
    entryValue cfg.vec.nmi = cfg.nmiEntry ∧ entryValue cfg.vec.reset = cfg.resetEntry ∧
      entryValue cfg.vec.irq = cfg.dispatchEntry := by
  simp only [admitted, Bool.and_eq_true] at h
  have h' := h.1.1.1.1.1
  simp only [vectorsSpell, Bool.and_eq_true, decide_eq_true_eq] at h'
  exact ⟨h'.1.1, h'.1.2, h'.2⟩

/-- What R10 (e) says of the table bytes: slots 1 to 6 spell the handlers' entries. -/
theorem table_spells (cfg : Cfg) (h : admitted cfg = true) :
    entryValue cfg.table.slot1 = cfg.jt1 ∧ entryValue cfg.table.slot2 = cfg.jt2 ∧
      entryValue cfg.table.slot3 = cfg.jt3 ∧ entryValue cfg.table.slot4 = cfg.jt4 ∧
      entryValue cfg.table.slot5 = cfg.jt5 ∧ entryValue cfg.table.slot6 = cfg.jt6 := by
  simp only [admitted, Bool.and_eq_true] at h
  have h' := h.1.1.2
  simp only [tableSpells, Bool.and_eq_true, decide_eq_true_eq] at h'
  obtain ⟨⟨⟨⟨⟨h1, h2⟩, h3⟩, h4⟩, h5⟩, h6⟩ := h'
  exact ⟨h1, h2, h3, h4, h5, h6⟩

/-- The break mask of an admitted configuration has one bit, so it is not 0 (R10 (d)). -/
theorem brkMask_ne_zero (cfg : Cfg) (h : admitted cfg = true) : cfg.brkMask ≠ 0 := by
  simp only [admitted, depthAndMask, Bool.and_eq_true] at h
  obtain ⟨⟨⟨⟨_, _, hm⟩, _⟩, _⟩, _⟩ := h
  intro h0
  rw [h0] at hm
  revert hm
  decide

/-- A 16-bit value is its high byte times 256 plus its low byte (00_scope.md R11). -/
theorem word16_toNat (hi lo : Byte) : (word16 hi lo).toNat = hi.toNat * 256 + lo.toNat := by
  have h : (word16 hi lo).toNat = hi.toNat <<< 8 ||| lo.toNat := BitVec.toNat_append hi lo
  rw [h, Nat.shiftLeft_eq, Nat.mul_comm, ← Nat.two_pow_add_eq_or_of_lt lo.isLt]

@[simp] theorem lowByte_word16 (hi lo : Byte) : lowByte (word16 hi lo) = lo := by
  apply BitVec.eq_of_toNat_eq
  have := lo.isLt
  rw [lowByte, BitVec.extractLsb'_toNat, word16_toNat, Nat.shiftRight_zero]
  omega

@[simp] theorem highByte_word16 (hi lo : Byte) : highByte (word16 hi lo) = hi := by
  apply BitVec.eq_of_toNat_eq
  have := lo.isLt
  have := hi.isLt
  rw [highByte, BitVec.extractLsb'_toNat, word16_toNat, Nat.shiftRight_eq_div_pow]
  omega

end Sys2Proof.Machine
end

