-- ==== Sys2Proof/Laws/Ops.lean ====
section
/-! SUPPORT. What each shared operation can do, said once: bus accesses, faults, acceptance, return,
busy-waits. -/

namespace Sys2Proof.Machine

@[simp] theorem andThen_go (s : State) (k : State → Flow) : (Flow.go s).andThen k = k s := rfl
@[simp] theorem andThen_raised (s : State) (k : State → Flow) :
    (Flow.raised s).andThen k = .raised s := rfl
@[simp] theorem andThen_refused (r : Refusal) (k : State → Flow) :
    (Flow.refused r).andThen k = .refused r := rfl
@[simp] theorem toOut_go (s : State) : (Flow.go s).toOut = .next s := rfl
@[simp] theorem toOut_raised (s : State) : (Flow.raised s).toOut = .next s := rfl
@[simp] theorem toOut_refused (r : Refusal) : (Flow.refused r).toOut = .refused r := rfl

/-- A whole step that answers a next state went on, or raised a fault. -/
theorem toOut_eq_next_iff (f : Flow) (t : State) :
    f.toOut = .next t ↔ f = .go t ∨ f = .raised t := by
  cases f <;> simp [Flow.toOut]

/-- A continued step that went on did so through both parts. -/
theorem andThen_eq_go_iff (f : Flow) (k : State → Flow) (t : State) :
    f.andThen k = .go t ↔ ∃ u, f = .go u ∧ k u = .go t := by
  cases f <;> simp [Flow.andThen]

/-- A continued step that raised a fault did so in one of its parts. -/
theorem andThen_eq_raised_iff (f : Flow) (k : State → Flow) (t : State) :
    f.andThen k = .raised t ↔ f = .raised t ∨ ∃ u, f = .go u ∧ k u = .raised t := by
  cases f <;> simp [Flow.andThen]

/-- Only BANK0 unwritten has no value to read (20_memory.md R43). -/
theorem readValue_eq_none_iff (s : State) (t : Target) (a : Addr) (draw : Byte) :
    readValue s t a draw = none ↔ t = .bank0 ∧ s.bank0 = none := by
  cases t <;> simp [readValue]

/-- A read that returns a value records it and goes on. -/
theorem readThen_of_value {s : State} {t : Target} {a : Addr} {draw v : Byte}
    (k : Byte → State → Flow) (h : readValue s t a draw = some v) :
    readThen s t a draw k = k v ((afterRead s t a draw).emit (.rd a v)) := by
  simp [readThen, busRead, h]

/-- A read of the unwritten BANK0 raises its fault. -/
theorem readThen_unwritten {s : State} {t : Target} {a : Addr} {draw : Byte}
    (k : Byte → State → Flow) (h : readValue s t a draw = none) :
    readThen s t a draw k = .raised (raise s .bankUnwritten 0xF000) := by
  simp [readThen, busRead, h, bankUnwritten, bank0Addr]

/-- What a read can do: it raises BANK_UNWRITTEN on the unwritten selector, or goes on with the value
recorded. -/
theorem readThen_cases (s : State) (t : Target) (a : Addr) (draw : Byte)
    (k : Byte → State → Flow) :
    (t = .bank0 ∧ s.bank0 = none ∧
        readThen s t a draw k = .raised (raise s .bankUnwritten 0xF000)) ∨
      ∃ v, readValue s t a draw = some v ∧
        readThen s t a draw k = k v ((afterRead s t a draw).emit (.rd a v)) := by
  cases h : readValue s t a draw with
  | none =>
    obtain ⟨ht, hb⟩ := (readValue_eq_none_iff s t a draw).mp h
    exact .inl ⟨ht, hb, readThen_unwritten k h⟩
  | some v => exact .inr ⟨v, rfl, readThen_of_value k h⟩

/-- A read of plain memory at a location: the byte known there, or the one supplied, which the location
then holds. -/
theorem busAccess_read_of_loc {s : State} {t : Target} {a : Addr} {loc : Nat} (d : Byte)
    (h : memoryLoc s t a = some loc) :
    busAccess s t a (.read d) = .go ((s.learnByte loc d).emit (.rd a (s.byteAt loc d))) := by
  cases t <;>
    simp_all [memoryLoc, busAccess, readThen, busRead, readValue, suppliedByte, afterRead]

/-- A window read that shows no page: a draw, and no byte of memory is fixed. -/
theorem busAccess_read_window_draw {s : State} {a : Addr} (d : Byte)
    (h : memoryLoc s .window a = none) :
    busAccess s .window a (.read d) = .go (s.emit (.rd a d)) := by
  simp [busAccess, readThen, busRead, readValue, suppliedByte, afterRead, h]

/-- What a write can do: BANK0 takes the byte, or a byte of plain memory does, or nothing but the
event is recorded, or the image refuses it (20_memory.md R44). -/
theorem busWrite_cases (s : State) (t : Target) (a : Addr) (v : Byte) :
    (t = .bank0 ∧ busWrite s t a v = .go { s.emit (.wr a v) with bank0 := some v }) ∨
      ((t = .vector ∨ t = .table) ∧ busWrite s t a v = .refused (.imageWrite a)) ∨
      busWrite s t a v = .go (s.emit (.wr a v)) ∨
      ∃ loc, busWrite s t a v = .go ((s.emit (.wr a v)).storeByte loc v) := by
  cases t <;> simp only [busWrite, reduceCtorEq, true_and, false_and, or_true, true_or, false_or,
    or_false]
  · split
    · exact .inr ⟨_, rfl⟩
    · exact .inl rfl
  · exact .inr ⟨_, rfl⟩

/-- A micro-step on the top frame of a stack that has one. -/
theorem withTop_cons {s : State} {f : Frame} {rest : List Frame}
    (k : Frame → List Frame → Flow) (h : s.frames = f :: rest) : withTop s k = k f rest := by
  simp [withTop, h]

/-- With an empty stack the micro-step is refused. -/
theorem withTop_nil {s : State} (k : Frame → List Frame → Flow) (h : s.frames = []) :
    withTop s k = .refused .noFrame := by
  simp [withTop, h]

/-- What `spin_check` can do (40_serialio.md R87): nothing, count, or raise SPIN_LIMIT. -/
theorem spinCheck_cases (s : State) (v : Byte) :
    (s.cfg.maxSpins = none ∧ spinCheck s v = .go s) ∨
      (∃ n, s.cfg.maxSpins = some n ∧ s.spins + 1 < n ∧
        spinCheck s v = .go { s with spins := s.spins + 1 }) ∨
      ∃ n, s.cfg.maxSpins = some n ∧ n ≤ s.spins + 1 ∧
        spinCheck s v = .raised (raise { s with spins := s.spins + 1 } .spinLimit v.toNat) := by
  unfold spinCheck
  cases h : s.cfg.maxSpins with
  | none => simp
  | some n =>
    by_cases hn : n ≤ s.spins + 1
    · right; right; exact ⟨n, rfl, hn, by simp [hn]⟩
    · right; left; exact ⟨n, rfl, by omega, by simp [hn]⟩

/-- One poll in an admitted configuration (40_serialio.md R82): the status is recorded, then the wait
ends, goes on, or reaches its limit. -/
theorem pollStatus_eq {s : State} (h : admitted s.cfg = true) (v : Byte) (ready : Byte → Bool)
    (onReady onWait : State → State) :
    pollStatus s v ready onReady onWait =
      if ready v then .go (onReady (s.emit (.rd (uartStatus s.cfg) v)))
      else (spinCheck (s.emit (.rd (uartStatus s.cfg) v)) v).andThen fun t => .go (onWait t) := by
  have hv : readValue s .uart (uartStatus s.cfg) v = some v := rfl
  simp only [pollStatus, addrTarget_uartStatus s.cfg h, readThen_of_value _ hv,
    afterRead_uart]

/-- What acceptance can do (42_entry.md R98): overflow at MAX_DEPTH, or the activation begins. -/
theorem acceptOrOverflow_cases (s : State) (e : Event) (ret : Position) (brk : Bool) :
    (s.frames.length = s.cfg.maxDepth ∧
        acceptOrOverflow s e ret brk = .raised (raise s .stackOverflow s.frames.length)) ∨
      (s.frames.length ≠ s.cfg.maxDepth ∧
        acceptOrOverflow s e ret brk = .go (acceptInterrupt s e ret brk)) := by
  unfold acceptOrOverflow
  split <;> simp_all

/-- The two vectors acceptance and reset read, as bytes of the image. -/
@[simp] theorem vectorByte_irq_lo (cfg : Cfg) : vectorByte cfg irqVector = cfg.vec.irq.lo := rfl
@[simp] theorem vectorByte_irq_hi (cfg : Cfg) : vectorByte cfg (irqVector + 1) = cfg.vec.irq.hi := rfl
@[simp] theorem vectorByte_reset_lo (cfg : Cfg) : vectorByte cfg resetVector = cfg.vec.reset.lo := rfl
@[simp] theorem vectorByte_reset_hi (cfg : Cfg) :
    vectorByte cfg (resetVector + 1) = cfg.vec.reset.hi := rfl
@[simp] theorem vectorByte_nmi_lo (cfg : Cfg) : vectorByte cfg nmiVector = cfg.vec.nmi.lo := rfl
@[simp] theorem vectorByte_nmi_hi (cfg : Cfg) : vectorByte cfg (nmiVector + 1) = cfg.vec.nmi.hi := rfl

/-- A state with no fault and no FAULT phase has not stopped. -/
theorem stopped_eq_none_iff (s : State) :
    stopped s = none ↔ s.fault = none ∧ faultOfWord s.phase = none := by
  unfold stopped
  cases s.fault <;> simp

/-- Each FAULT word names its own code (30_encoding.md R64). -/
@[simp] theorem faultOfWord_faultWord (c : Fault) : faultOfWord (faultWord c) = some c := by
  cases c <;> rfl

end Sys2Proof.Machine
end

