-- ==== Sys2Proof/Laws/PerInstr.lean ====
section
/-! SUPPORT. The family EncodeFitsRow: the code the encoder gives an operation matches its row of
spec/opcode_table.json (match and mask; a base and offset; a range; a name). One lemma per
constructor. -/

namespace Sys2Proof.Laws.EncodeFitsRow

open Sys2Proof.Machine

/-- A row of spec/opcode_table.json: its format, with the `match` and `mask` the table gives. -/
inductive Row where
  /-- PW9, mask 0x1FF -/
  | phase (m : PhaseWord)
  /-- EV3, mask 0x7 -/
  | event (m : EventCode)
  /-- LATCH8 -/
  | latch (m mask : Byte)
  /-- ADDR16 with a numeric match -/
  | addr (m mask : Addr)
  /-- ADDR16, TABLE_BASE+2k -/
  | slot (k : Nat)
  /-- ADDR16, UART_BASE+r -/
  | uart (r : Nat)
  /-- ADDR16, [WIN_LO, WIN_HI] -/
  | window
  /-- PSEUDO, by name -/
  | pseudo (n : PseudoName)

/-- Each operation's row. -/
def rowOf : Instr → Row
  | .idle _ => .phase 0x000
  | .entSave => .phase 0x001
  | .entBankRead => .phase 0x002
  | .entKstackSwitch => .phase 0x003
  | .entBankForce => .phase 0x004
  | .dspBrkCheck => .phase 0x005
  | .dspLatchRead _ => .phase 0x006
  | .dspTableLo => .phase 0x007
  | .dspTableHi => .phase 0x008
  | .dspJump => .phase 0x009
  | .handler10Fdc0Drq => .phase 0x01A
  | .handler20Fdc1Drq => .phase 0x02A
  | .handler30Fdc0Irq => .phase 0x03A
  | .handler40Fdc1Irq => .phase 0x04A
  | .handler50Ser0RxPoll _ => .phase 0x05A
  | .handler51Ser0RxRead _ => .phase 0x0DA
  | .handler52Ser0TxPoll _ => .phase 0x15A
  | .handler53Ser0TxWrite => .phase 0x1DA
  | .handler60Ser1 => .phase 0x06A
  | .rstBankWrite => .phase 0x00B
  | .rstKstackRestore => .phase 0x00C
  | .rstPop => .phase 0x00D
  | .rstRti => .phase 0x00E
  | .faultUnmappedSource => .phase 0x01F
  | .faultStackOverflow => .phase 0x02F
  | .faultBankUnwritten => .phase 0x03F
  | .faultSpinLimit => .phase 0x04F
  | .evProg _ => .event 0
  | .evReset _ => .event 1
  | .evIrq => .event 2
  | .evSwi => .event 3
  | .evNmi => .event 4
  | .evStep _ _ => .event 5
  | .latch02Fdc0Drq => .latch 0x02 0xFF
  | .latch04Fdc1Drq => .latch 0x04 0xFF
  | .latch06Fdc0Irq => .latch 0x06 0xFF
  | .latch08Fdc1Irq => .latch 0x08 0xFF
  | .latch0ASer0Irq => .latch 0x0A 0xFF
  | .latch0CSer1Irq => .latch 0x0C 0xFF
  | .latchReservedGuard => .latch 0x00 0xFF
  | .latchReservedOdd _ => .latch 0x01 0x01
  | .latchReserved0E => .latch 0x0E 0xFF
  | .latchReserved10To1E _ => .latch 0x10 0xF1
  | .latchReserved20To3E _ => .latch 0x20 0xE1
  | .latchReserved40To7E _ => .latch 0x40 0xC1
  | .latchReserved80ToFE _ => .latch 0x80 0x81
  | .addrBank0Read => .addr 0xF000 0xFFFF
  | .addrBank0Write _ => .addr 0xF000 0xFFFF
  | .addrIntLatch _ => .addr 0xF0FF 0xFFFF
  | .addrVecNmi _ => .addr 0xFFFA 0xFFFE
  | .addrVecReset _ => .addr 0xFFFC 0xFFFE
  | .addrVecIrq _ => .addr 0xFFFE 0xFFFE
  | .addrJtSlot0 _ => .slot 0
  | .addrJtSlot1 _ => .slot 1
  | .addrJtSlot2 _ => .slot 2
  | .addrJtSlot3 _ => .slot 3
  | .addrJtSlot4 _ => .slot 4
  | .addrJtSlot5 _ => .slot 5
  | .addrJtSlot6 _ => .slot 6
  | .addrUartDataRead _ => .uart 0
  | .addrUartDataWrite _ => .uart 0
  | .addrUartStatus _ => .uart 1
  | .addrUartCmd _ => .uart 2
  | .addrUartCtrl _ => .uart 3
  | .addrWindow _ _ => .window
  | .pseudoWithBank0 _ => .pseudo .withBank0
  | .pseudoActivation _ => .pseudo .activation
  | .pseudoCli => .pseudo .cli
  | .pseudoSei => .pseudo .sei

/-- A code matches a row. -/
def Fits (cfg : Cfg) : Row → Code → Prop
  | .phase m, .phase w _ => w = m
  | .event m, .line (.event code _) => code = m
  | .latch m mask, .latch v => v &&& mask = m
  | .addr m mask, .bus a _ => a &&& mask = m
  | .slot k, .bus a _ => tableOffset cfg a / 2 = k
  | .uart r, .bus a _ => uartOffset cfg a = r
  | .window, .bus a _ => inWindow cfg a = true
  | .pseudo n, .line (.pseudo n' _) => n' = n
  | _, _ => False

/-- The code of a well-formed operation matches its row. -/
def Statement (i : Instr) : Prop := ∀ cfg : Cfg, i.wf cfg = true → Fits cfg (rowOf i) (encode cfg i)

theorem slot_fits (cfg : Cfg) (k : Nat) (hi : Bool) (hk : k < 7) :
    tableOffset cfg (slotAddr cfg k hi) / 2 = k := by
  have : hi.toNat ≤ 1 := Bool.toNat_le hi
  rw [tableOffset_slotAddr cfg k hi hk]
  omega

theorem window_fits (cfg : Cfg) (a : Addr) (h : addrTarget cfg a = .window) :
    inWindow cfg a = true := by
  unfold addrTarget at h
  repeat' split at h
  all_goals first
    | assumption
    | cases h

theorem idle (ops : List ProgOp) : Statement (.idle ops) :=
  fun _ _ => rfl

theorem entSave : Statement .entSave :=
  fun _ _ => rfl

theorem entBankRead : Statement .entBankRead :=
  fun _ _ => rfl

theorem entKstackSwitch : Statement .entKstackSwitch :=
  fun _ _ => rfl

theorem entBankForce : Statement .entBankForce :=
  fun _ _ => rfl

theorem dspBrkCheck : Statement .dspBrkCheck :=
  fun _ _ => rfl

theorem dspLatchRead (latch : Byte) : Statement (.dspLatchRead latch) :=
  fun _ _ => rfl

theorem dspTableLo : Statement .dspTableLo :=
  fun _ _ => rfl

theorem dspTableHi : Statement .dspTableHi :=
  fun _ _ => rfl

theorem dspJump : Statement .dspJump :=
  fun _ _ => rfl

theorem handler10Fdc0Drq : Statement .handler10Fdc0Drq :=
  fun _ _ => rfl

theorem handler20Fdc1Drq : Statement .handler20Fdc1Drq :=
  fun _ _ => rfl

theorem handler30Fdc0Irq : Statement .handler30Fdc0Irq :=
  fun _ _ => rfl

theorem handler40Fdc1Irq : Statement .handler40Fdc1Irq :=
  fun _ _ => rfl

theorem handler50Ser0RxPoll (status : Byte) : Statement (.handler50Ser0RxPoll status) :=
  fun _ _ => rfl

theorem handler51Ser0RxRead (data : Byte) : Statement (.handler51Ser0RxRead data) :=
  fun _ _ => rfl

theorem handler52Ser0TxPoll (status : Byte) : Statement (.handler52Ser0TxPoll status) :=
  fun _ _ => rfl

theorem handler53Ser0TxWrite : Statement .handler53Ser0TxWrite :=
  fun _ _ => rfl

theorem handler60Ser1 : Statement .handler60Ser1 :=
  fun _ _ => rfl

theorem rstBankWrite : Statement .rstBankWrite :=
  fun _ _ => rfl

theorem rstKstackRestore : Statement .rstKstackRestore :=
  fun _ _ => rfl

theorem rstPop : Statement .rstPop :=
  fun _ _ => rfl

theorem rstRti : Statement .rstRti :=
  fun _ _ => rfl

theorem faultUnmappedSource : Statement .faultUnmappedSource :=
  fun _ _ => rfl

theorem faultStackOverflow : Statement .faultStackOverflow :=
  fun _ _ => rfl

theorem faultBankUnwritten : Statement .faultBankUnwritten :=
  fun _ _ => rfl

theorem faultSpinLimit : Statement .faultSpinLimit :=
  fun _ _ => rfl

theorem evProg (ops : List ProgOp) : Statement (.evProg ops) :=
  fun _ _ => rfl

theorem evReset (d : ResetDraws) : Statement (.evReset d) :=
  fun _ _ => rfl

theorem evIrq : Statement .evIrq :=
  fun _ _ => rfl

theorem evSwi : Statement .evSwi :=
  fun _ _ => rfl

theorem evNmi : Statement .evNmi :=
  fun _ _ => rfl

theorem evStep (mode : StepMode) (d : Draws) : Statement (.evStep mode d) :=
  fun _ _ => rfl

theorem latch02Fdc0Drq : Statement .latch02Fdc0Drq :=
  fun _ _ => rfl

theorem latch04Fdc1Drq : Statement .latch04Fdc1Drq :=
  fun _ _ => rfl

theorem latch06Fdc0Irq : Statement .latch06Fdc0Irq :=
  fun _ _ => rfl

theorem latch08Fdc1Irq : Statement .latch08Fdc1Irq :=
  fun _ _ => rfl

theorem latch0ASer0Irq : Statement .latch0ASer0Irq :=
  fun _ _ => rfl

theorem latch0CSer1Irq : Statement .latch0CSer1Irq :=
  fun _ _ => rfl

theorem latchReservedGuard : Statement .latchReservedGuard :=
  fun _ _ => rfl

theorem latchReservedOdd (hi : BitVec 7) : Statement (.latchReservedOdd hi) :=
  fun _ _ => (by decide : ∀ h : BitVec 7, (h ++ 1#1 : Byte) &&& 0x01 = 0x01) hi

theorem latchReserved0E : Statement .latchReserved0E :=
  fun _ _ => rfl

theorem latchReserved10To1E (n : BitVec 3) : Statement (.latchReserved10To1E n) :=
  fun _ _ => (by decide : ∀ k : BitVec 3, (0x1#4 ++ k ++ 0#1 : Byte) &&& 0xF1 = 0x10) n

theorem latchReserved20To3E (n : BitVec 4) : Statement (.latchReserved20To3E n) :=
  fun _ _ => (by decide : ∀ k : BitVec 4, (0x1#3 ++ k ++ 0#1 : Byte) &&& 0xE1 = 0x20) n

theorem latchReserved40To7E (n : BitVec 5) : Statement (.latchReserved40To7E n) :=
  fun _ _ => (by decide : ∀ k : BitVec 5, (0x1#2 ++ k ++ 0#1 : Byte) &&& 0xC1 = 0x40) n

theorem latchReserved80ToFE (n : BitVec 6) : Statement (.latchReserved80ToFE n) :=
  fun _ _ => (by decide : ∀ k : BitVec 6, (0x1#1 ++ k ++ 0#1 : Byte) &&& 0x81 = 0x80) n

theorem addrBank0Read : Statement .addrBank0Read :=
  fun _ _ => rfl

theorem addrBank0Write (page : Byte) : Statement (.addrBank0Write page) :=
  fun _ _ => rfl

theorem addrIntLatch (acc : Access) : Statement (.addrIntLatch acc) :=
  fun _ _ => rfl

theorem addrVecNmi (hi : Bool) : Statement (.addrVecNmi hi) :=
  fun _ _ => by cases hi <;> rfl

theorem addrVecReset (hi : Bool) : Statement (.addrVecReset hi) :=
  fun _ _ => by cases hi <;> rfl

theorem addrVecIrq (hi : Bool) : Statement (.addrVecIrq hi) :=
  fun _ _ => by cases hi <;> rfl

theorem addrJtSlot0 (hi : Bool) : Statement (.addrJtSlot0 hi) :=
  fun cfg _ => slot_fits cfg 0 hi (by decide)

theorem addrJtSlot1 (hi : Bool) : Statement (.addrJtSlot1 hi) :=
  fun cfg _ => slot_fits cfg 1 hi (by decide)

theorem addrJtSlot2 (hi : Bool) : Statement (.addrJtSlot2 hi) :=
  fun cfg _ => slot_fits cfg 2 hi (by decide)

theorem addrJtSlot3 (hi : Bool) : Statement (.addrJtSlot3 hi) :=
  fun cfg _ => slot_fits cfg 3 hi (by decide)

theorem addrJtSlot4 (hi : Bool) : Statement (.addrJtSlot4 hi) :=
  fun cfg _ => slot_fits cfg 4 hi (by decide)

theorem addrJtSlot5 (hi : Bool) : Statement (.addrJtSlot5 hi) :=
  fun cfg _ => slot_fits cfg 5 hi (by decide)

theorem addrJtSlot6 (hi : Bool) : Statement (.addrJtSlot6 hi) :=
  fun cfg _ => slot_fits cfg 6 hi (by decide)

theorem addrUartDataRead (draw : Byte) : Statement (.addrUartDataRead draw) :=
  fun cfg _ => by simp [Fits, rowOf, encode, uartOffset, uartData]

theorem addrUartDataWrite (b : Byte) : Statement (.addrUartDataWrite b) :=
  fun cfg _ => by simp [Fits, rowOf, encode, uartOffset, uartData]

theorem addrUartStatus (acc : Access) : Statement (.addrUartStatus acc) :=
  fun cfg _ => by simp [Fits, rowOf, encode, uartOffset, uartStatus]

theorem addrUartCmd (acc : Access) : Statement (.addrUartCmd acc) :=
  fun cfg _ => by simp [Fits, rowOf, encode, uartOffset, uartCmd]

theorem addrUartCtrl (acc : Access) : Statement (.addrUartCtrl acc) :=
  fun cfg _ => by simp [Fits, rowOf, encode, uartOffset, uartCtrl]

theorem addrWindow (a : Addr) (acc : Access) : Statement (.addrWindow a acc) :=
  fun cfg h => window_fits cfg a (of_decide_eq_true h)

theorem pseudoWithBank0 (action : ProgSeq) : Statement (.pseudoWithBank0 action) :=
  fun _ _ => rfl

theorem pseudoActivation (d : Draws) : Statement (.pseudoActivation d) :=
  fun _ _ => rfl

theorem pseudoCli : Statement .pseudoCli :=
  fun _ _ => rfl

theorem pseudoSei : Statement .pseudoSei :=
  fun _ _ => rfl

end Sys2Proof.Laws.EncodeFitsRow
end

