-- ==== Sys2Proof/Laws/Program.lean ====
section
/-! SUPPORT. What a program step can do (10_state.md R16): it never touches SSEL, the frames, the
sector counter or the break record, and leaves the phase alone unless it raises a fault. -/

namespace Sys2Proof.Machine

/-- What every program operation leaves alone. -/
structure ProgramKeeps (s t : State) : Prop where
  cfg : t.cfg = s.cfg
  ssel : t.ssel = s.ssel
  frames : t.frames = s.frames
  sectorPtr : t.sectorPtr = s.sectorPtr
  brkUnimpl : t.brkUnimpl = s.brkUnimpl
  pending : t.pending = s.pending
  script : t.script = s.script
  drawCount : t.drawCount = s.drawCount
  off : t.off = s.off
  history : ∃ es, t.history = s.history ++ es ∧ Event.reset ∉ es
  mem_wf : Memory.wf s.mem = true → Memory.wf t.mem = true
  sp_lt : s.sp < 2 ^ s.cfg.spW → t.sp < 2 ^ t.cfg.spW

theorem ProgramKeeps.refl (s : State) : ProgramKeeps s s :=
  ⟨rfl, rfl, rfl, rfl, rfl, rfl, rfl, rfl, rfl, ⟨[], by simp⟩, id, id⟩

theorem ProgramKeeps.trans {s t u : State} (h : ProgramKeeps s t) (h' : ProgramKeeps t u) :
    ProgramKeeps s u := by
  obtain ⟨es, he, hr⟩ := h.history
  obtain ⟨es', he', hr'⟩ := h'.history
  exact ⟨h'.cfg.trans h.cfg, h'.ssel.trans h.ssel, h'.frames.trans h.frames,
    h'.sectorPtr.trans h.sectorPtr, h'.brkUnimpl.trans h.brkUnimpl,
    h'.pending.trans h.pending, h'.script.trans h.script, h'.drawCount.trans h.drawCount,
    h'.off.trans h.off, ⟨es ++ es', by simp [he', he], by simp [hr, hr']⟩,
    fun hw => h'.mem_wf (h.mem_wf hw), fun hs => h'.sp_lt (h.sp_lt hs)⟩

/-- How a flow may leave a program step: gone on with phase and fault record as they were, or raised
into the FAULT phase. -/
def FlowKeeps (s : State) (f : Flow) : Prop :=
  match f with
  | .go t => ProgramKeeps s t ∧ t.phase = s.phase ∧ t.fault = s.fault
  | .raised t => ProgramKeeps s t ∧ ∃ c, t.fault = some c ∧ t.phase = faultWord c
  | .refused _ => True

theorem FlowKeeps.andThen {s : State} {f : Flow} {k : State → Flow} (h : FlowKeeps s f)
    (hk : ∀ t, FlowKeeps t (k t)) : FlowKeeps s (f.andThen k) := by
  cases f with
  | go t =>
    obtain ⟨h1, h2, h3⟩ := h
    have h' := hk t
    simp only [andThen_go]
    cases hkt : k t with
    | go u =>
      rw [hkt] at h'
      exact ⟨h1.trans h'.1, h'.2.1.trans h2, h'.2.2.trans h3⟩
    | raised u => rw [hkt] at h'; exact ⟨h1.trans h'.1, h'.2⟩
    | refused r => trivial
  | raised t => exact h
  | refused r => trivial

theorem keeps_raise (s : State) (c : Fault) (info : Nat) :
    FlowKeeps s (.raised (raise s c info)) :=
  ⟨⟨rfl, rfl, rfl, rfl, rfl, rfl, rfl, rfl, rfl, ⟨[.fault c info], by simp⟩, id, id⟩, c, rfl, rfl⟩

theorem keeps_emit (s : State) (e : Event) (he : e ≠ .reset) : ProgramKeeps s (s.emit e) :=
  ⟨rfl, rfl, rfl, rfl, rfl, rfl, rfl, rfl, rfl, ⟨[e], by simp [Ne.symm he]⟩, id, id⟩

theorem keeps_storeByte (s : State) (loc : Nat) (v : Byte) : ProgramKeeps s (s.storeByte loc v) :=
  ⟨rfl, rfl, rfl, rfl, rfl, rfl, rfl, rfl, rfl, ⟨[], by simp⟩, write_keeps_wf _ _ _, id⟩

theorem keeps_afterRead (s : State) (t : Target) (a : Addr) (d : Byte) :
    ProgramKeeps s (afterRead s t a d) :=
  ⟨by simp, by simp, by simp, by simp, by simp, by simp, by simp, by simp, by simp, ⟨[], by simp⟩,
    afterRead_keeps_wf s t a d, by simp⟩

theorem keeps_readThen (s : State) (t : Target) (a : Addr) (draw : Byte) (k : Byte → State → Flow)
    (hk : ∀ v u, FlowKeeps u (k v u)) : FlowKeeps s (readThen s t a draw k) := by
  rcases readThen_cases s t a draw k with ⟨_, _, h⟩ | ⟨v, _, h⟩
  · rw [h]; exact keeps_raise s _ _
  · rw [h]
    have : FlowKeeps s (Flow.go ((afterRead s t a draw).emit (.rd a v))) :=
      ⟨(keeps_afterRead s t a draw).trans (keeps_emit _ _ (by simp)), by simp, by simp⟩
    simpa using this.andThen (hk v)

theorem keeps_busWrite (s : State) (t : Target) (a : Addr) (v : Byte) :
    FlowKeeps s (busWrite s t a v) := by
  have he := keeps_emit s (.wr a v) (by simp)
  rcases busWrite_cases s t a v with ⟨_, h⟩ | ⟨_, h⟩ | h | ⟨loc, h⟩ <;> rw [h]
  · exact ⟨⟨rfl, rfl, rfl, rfl, rfl, rfl, rfl, rfl, rfl, he.history, id, id⟩, rfl, rfl⟩
  · trivial
  · exact ⟨he, rfl, rfl⟩
  · exact ⟨he.trans (keeps_storeByte _ _ _), rfl, rfl⟩

theorem keeps_spinCheck (s : State) (v : Byte) : FlowKeeps s (spinCheck s v) := by
  have hs : FlowKeeps s (Flow.go { s with spins := s.spins + 1 }) :=
    ⟨⟨rfl, rfl, rfl, rfl, rfl, rfl, rfl, rfl, rfl, ⟨[], by simp⟩, id, id⟩, rfl, rfl⟩
  rcases spinCheck_cases s v with ⟨_, h⟩ | ⟨n, _, _, h⟩ | ⟨n, _, _, h⟩ <;> rw [h]
  · exact ⟨ProgramKeeps.refl s, rfl, rfl⟩
  · exact hs
  · exact ⟨⟨rfl, rfl, rfl, rfl, rfl, rfl, rfl, rfl, rfl, ⟨[_], rfl, by simp⟩, id, id⟩,
      _, rfl, rfl⟩

theorem keeps_busAccess (s : State) (t : Target) (a : Addr) (acc : Access) :
    FlowKeeps s (busAccess s t a acc) := by
  cases acc with
  | read d => exact keeps_readThen s t a d _ fun v u => ⟨ProgramKeeps.refl u, rfl, rfl⟩
  | write v => exact keeps_busWrite s t a v

theorem keeps_poll (s : State) (v : Byte) (ready : Byte → Bool) :
    FlowKeeps s (pollStatus s v ready id id) := by
  refine keeps_readThen s _ _ _ _ fun w u => ?_
  split
  · exact ⟨ProgramKeeps.refl u, rfl, rfl⟩
  · exact (keeps_spinCheck u w).andThen fun t => ⟨ProgramKeeps.refl t, rfl, rfl⟩

/-- Every program operation keeps what R16 says it may not write. -/
theorem keeps_runOp (s : State) (op : ProgOp) : FlowKeeps s (runOp s op) := by
  cases op with
  | bankWr v => exact keeps_busWrite s .bank0 bank0Addr v
  | bankRd =>
    refine keeps_readThen s _ _ _ _ fun v u => ?_
    exact ⟨⟨rfl, rfl, rfl, rfl, rfl, rfl, rfl, rfl, rfl, ⟨[], by simp⟩, id, id⟩, rfl, rfl⟩
  | rd a v => exact keeps_busAccess s (addrTarget s.cfg a) a (.read v)
  | wr a v => exact keeps_busAccess s (addrTarget s.cfg a) a (.write v)
  | beginWait =>
    exact ⟨⟨rfl, rfl, rfl, rfl, rfl, rfl, rfl, rfl, rfl, ⟨[], by simp [startWait]⟩, id, id⟩,
      rfl, rfl⟩
  | pollRx v => exact keeps_poll s v rxFull
  | pollTx v => exact keeps_poll s v txEmpty
  | setSP v =>
    exact ⟨⟨rfl, rfl, rfl, rfl, rfl, rfl, rfl, rfl, rfl, ⟨[], by simp⟩, id,
      fun _ => Nat.mod_lt _ (by positivity)⟩, rfl, rfl⟩
  | _ => exact ⟨⟨rfl, rfl, rfl, rfl, rfl, rfl, rfl, rfl, rfl, ⟨[], by simp⟩, id, id⟩, rfl, rfl⟩

/-- Every program step keeps what R16 says it may not write. -/
theorem keeps_runOps (ops : List ProgOp) (s : State) : FlowKeeps s (runOps ops s) := by
  induction ops generalizing s with
  | nil => exact ⟨ProgramKeeps.refl s, rfl, rfl⟩
  | cons op rest ih => exact (keeps_runOp s op).andThen ih

/-- Undoing a raising step's writes leaves at least as much as it was (60_exceptions.md R131). -/
theorem FlowKeeps.precise {s : State} {f : Flow} (h : FlowKeeps s f) : FlowKeeps s (precise s f) := by
  cases f with
  | go t => exact h
  | raised t =>
    obtain ⟨k, c, hc⟩ := h
    exact ⟨⟨rfl, rfl, rfl, rfl, rfl, rfl, rfl, rfl, rfl, k.history, id, id⟩, c, hc⟩
  | refused r => trivial

theorem keeps_opsStep (ops : List ProgOp) (s : State) : FlowKeeps s (opsStep ops s) :=
  (keeps_runOps ops s).precise

/-! ### Sequences of program steps -/

@[simp] theorem seqThen_done (second : ProgSeq) : seqThen .done second = second := rfl
@[simp] theorem seqThen_step (ops : List ProgOp) (rest second : ProgSeq) :
    seqThen (.step ops rest) second = .step ops (seqThen rest second) := rfl
@[simp] theorem seqThen_withBank0 (action rest second : ProgSeq) :
    seqThen (.withBank0 action rest) second = .withBank0 action (seqThen rest second) := rfl

/-- Sequences are followed by one another in one order only. -/
theorem seqThen_assoc (p q r : ProgSeq) : seqThen (seqThen p q) r = seqThen p (seqThen q r) := by
  induction p with
  | done => rfl
  | step ops rest ih => simp [ih]
  | withBank0 action rest _ ih => simp [ih]

/-- What the first step of a sequence can do: what a program step can, but for what is pending after
it. -/
theorem keeps_seqStep (seq : ProgSeq) (s : State) :
    match seqStep seq s with
    | .go t => ProgramKeeps s { t with pending := s.pending } ∧ t.phase = s.phase ∧ t.fault = s.fault
    | .raised t => ProgramKeeps s t ∧ ∃ c, t.fault = some c ∧ t.phase = faultWord c
    | .refused _ => True := by
  cases seq with
  | done => exact ⟨ProgramKeeps.refl s, rfl, rfl⟩
  | step ops rest =>
    have h := keeps_runOps ops { s with pending := rest }
    simp only [seqStep]
    cases hr : runOps ops { s with pending := rest } with
    | go t =>
      rw [hr] at h
      obtain ⟨k, hp, hf⟩ := h
      exact ⟨⟨k.cfg, k.ssel, k.frames, k.sectorPtr, k.brkUnimpl, rfl, k.script, k.drawCount, k.off,
        k.history, k.mem_wf, k.sp_lt⟩, hp, hf⟩
    | raised t =>
      rw [hr] at h
      obtain ⟨k, c, hc⟩ := h
      exact ⟨⟨rfl, rfl, rfl, rfl, rfl, rfl, rfl, rfl, rfl, k.history, id, id⟩, c, hc⟩
    | refused r => trivial
  | withBank0 action rest =>
    simp only [seqStep, beginWithBank0, bankSwitchRead]
    rcases readThen_cases s .bank0 bank0Addr 0 (fun saved s' => Flow.go { s' with
        pending := .step [.bankWr 0x00] (seqThen action (.step [.bankWr saved] rest)) }) with
      ⟨_, _, h⟩ | ⟨v, _, h⟩
    · rw [h]; exact keeps_raise s _ _
    · rw [h, afterRead_bank0Target]
      exact ⟨keeps_emit s _ (by simp), rfl, rfl⟩

/-- Each step of a `withBank0` in turn: the read, then the three parts in the order of 41_bankswitch.md
R91, one program step at a time. -/
theorem seqStep_withBank0 (s : State) (b : Byte) (action rest : ProgSeq) (h : s.bank0 = some b) :
    seqStep (.withBank0 action rest) s = .go { s with
      history := s.history ++ [.rd 0xF000 b],
      pending := .step [.bankWr 0x00] (seqThen action (.step [.bankWr b] rest)) } := by
  have hv : readValue s .bank0 bank0Addr 0 = some b := h
  simp only [seqStep, beginWithBank0, bankSwitchRead, readThen_of_value _ hv,
    afterRead_bank0Target]
  rfl

theorem seqStep_bankWr (s : State) (b : Byte) (rest : ProgSeq) :
    seqStep (.step [.bankWr b] rest) s = .go { s with
      history := s.history ++ [.wr 0xF000 b], bank0 := some b, pending := rest } := rfl

end Sys2Proof.Machine
end

