-- ==== Sys2Proof/Tests/Slice0.lean ====
section
/-! SUPPORT. The model's own tests: the well-formedness smoke test, a word of every row written out from
the spec's encoding tables, single steps with expected values from 95_test_vectors.md, and for every
obligation with hypotheses a concrete state that meets them. -/

namespace Sys2Proof.Tests

open Sys2Proof Sys2Proof.Machine

/-! ### Helpers -/

/-- A view of the state an operation ends in, if it answers a next state. -/
def after {β : Type} (i : Instr) (s : State) (view : State → β) : Option β :=
  match exec i s with
  | .next t => some (view t)
  | _ => none

/-- `o` answers a next state that passes a check. -/
def nextWith (o : Out) (check : State → Bool) : Bool :=
  match o with
  | .next t => check t
  | _ => false

theorem nextWith_iff (o : Out) (check : State → Bool) :
    nextWith o check = true ↔ ∃ t, o = .next t ∧ check t = true := by
  cases o <;> simp [nextWith]

/-- The start state of vectors E1 to E6 of 95_test_vectors.md L2.3, with an empty history. -/
def idleState (cfg : Cfg) : State :=
  { State.resetOf cfg with
    a := 0x11, x := 0x22, y := 0x33, p := 0x20, pc := 0x1234, sp := 0xE0, bank0 := some 0x02,
    imask := false, history := [] }

/-- A frame pushed from `idleState`, saved whole. -/
def topFrame : Frame where
  ret := .prog 0x1234
  p := 0x20
  brk := false
  a := 0x11
  x := 0x22
  y := 0x33
  bank := 0x02
  sp := 0xE0
  ssel := .user

/-- An outermost activation in a phase from DSP_BRK_CHECK on. -/
def inPhase (cfg : Cfg) (w : PhaseWord) : State :=
  { idleState cfg with
    phase := w, frames := [topFrame], bank0 := some 0x00, off := 0x0A,
    sp := if cfg.kstack then 0xFF else 0xE0,
    ssel := if cfg.kstack then .kernel else .user }

/-- C0 with a spin limit. -/
def spinCfg (n : Nat) : Cfg := { Config.c0 with maxSpins := some n }

/-- C0 with MAX_DEPTH = 1 (95_test_vectors.md L3.8). -/
def depthCfg : Cfg := { Config.c0 with maxDepth := 1 }

/-- A `step` line with draws. -/
def stepLine (d : Draws) : Line := .event 5 { draws := d }

/-! ### Well-formedness and admission, one ill-formed term for each check -/

theorem test_wf_sp_value : Instr.wf Config.c0 (.evProg [.setSP 256]) = false ∧
    Instr.wf Config.c0 (.evProg [.setSP 255]) = true := by decide

theorem test_wf_image_write : Instr.wf Config.c0 (.idle [.wr 0xFFFA 0]) = false ∧
    Instr.wf Config.c0 (.pseudoWithBank0 (.step [.cli] (.step [.wr 0xE00D 0] .done))) = false ∧
    Instr.wf Config.c0 (.idle [.wr 0xE00E 0]) = true := by decide

theorem test_wf_kernel_stack_phases : Instr.wf Config.c0 .entKstackSwitch = false ∧
    Instr.wf Config.c0 .rstKstackRestore = false ∧ Instr.wf Config.c1 .entKstackSwitch = true := by
  decide

theorem test_wf_window_address : Instr.wf Config.c0 (.addrWindow 0x8000 (.read 0)) = false ∧
    Instr.wf Config.c0 (.addrWindow 0x7FFF (.read 0)) = true := by decide

theorem test_wf_reset_sp : Instr.wf Config.c0 (.evReset { sp := some 256 }) = false ∧
    Instr.wf Config.c0 (.evReset {}) = true := by decide

theorem test_wf_draws : Instr.wf Config.c0 (.evStep .once { latch := [2, 4] }) = false ∧
    Instr.wf Config.c0 (.evStep .once { status := [0, 8] }) = false ∧
    Instr.wf Config.c0 (.evStep .once { data := [1, 2] }) = false ∧
    Instr.wf Config.c0 (.evStep .run { latch := [2, 4] }) = false ∧
    Instr.wf Config.c0 (.pseudoActivation { data := [1, 2] }) = false ∧
    Instr.wf Config.c0 (.evStep .run { status := [0, 8] }) = true := by decide

/-- 00_scope.md R10 (a), (b), (d), (e), (f) and the types of R9, each broken once. -/
theorem test_admitted : admitted Config.c0 = true ∧ admitted Config.c1 = true ∧
    admitted { Config.c0 with resetEntry := 0xE201 } = false ∧
    admitted { Config.c0 with winHi := 0xD000 } = false ∧
    admitted { Config.c0 with maxDepth := 0 } = false ∧
    admitted { Config.c0 with brkMask := 0x30 } = false ∧
    admitted { Config.c0 with jt6 := 0xE061 } = false ∧
    admitted { Config.c0 with uartBase := 0xDFFD } = false ∧
    admitted { Config.c0 with uartBase := 0xEFFD } = false ∧
    admitted { Config.c0 with nBanks := 257 } = false ∧
    admitted { Config.c0 with kstackTop := 256 } = false := by decide

/-! ### Decoding: a word of every row, written out from 30_encoding.md -/

/-- The Entering and Dispatching words of R65: the code in bits [3:0], bits [8:4] zero. -/
theorem test_decode_phase_codes :
    decodeTableWord 16 0b000000000 = some (.idle []) ∧
    decodeTableWord 16 0b000000001 = some .entSave ∧
    decodeTableWord 16 0b000000010 = some .entBankRead ∧
    decodeTableWord 16 0b000000011 = some .entKstackSwitch ∧
    decodeTableWord 16 0b000000100 = some .entBankForce ∧
    decodeTableWord 16 0b000000101 = some .dspBrkCheck ∧
    decodeTableWord 16 0b000000110 = some (.dspLatchRead 0) ∧
    decodeTableWord 16 0b000000111 = some .dspTableLo ∧
    decodeTableWord 16 0b000001000 = some .dspTableHi ∧
    decodeTableWord 16 0b000001001 = some .dspJump := by decide

/-- The HANDLER words: step in [8:7], h in [6:4], code 0xA (R64, R66). -/
theorem test_decode_handler_words :
    decodeTableWord 16 0b000011010 = some .handler10Fdc0Drq ∧
    decodeTableWord 16 0b000101010 = some .handler20Fdc1Drq ∧
    decodeTableWord 16 0b000111010 = some .handler30Fdc0Irq ∧
    decodeTableWord 16 0b001001010 = some .handler40Fdc1Irq ∧
    decodeTableWord 16 0b001011010 = some (.handler50Ser0RxPoll 0) ∧
    decodeTableWord 16 0b011011010 = some (.handler51Ser0RxRead 0) ∧
    decodeTableWord 16 0b101011010 = some (.handler52Ser0TxPoll 0) ∧
    decodeTableWord 16 0b111011010 = some .handler53Ser0TxWrite ∧
    decodeTableWord 16 0b001101010 = some .handler60Ser1 := by decide

/-- The Restoring words, and the FAULT words with the fault code in [7:4] (R65, R75). -/
theorem test_decode_restore_and_fault_words :
    decodeTableWord 16 0b000001011 = some .rstBankWrite ∧
    decodeTableWord 16 0b000001100 = some .rstKstackRestore ∧
    decodeTableWord 16 0b000001101 = some .rstPop ∧
    decodeTableWord 16 0b000001110 = some .rstRti ∧
    decodeTableWord 16 0b000011111 = some .faultUnmappedSource ∧
    decodeTableWord 16 0b000101111 = some .faultStackOverflow ∧
    decodeTableWord 16 0b000111111 = some .faultBankUnwritten ∧
    decodeTableWord 16 0b001001111 = some .faultSpinLimit := by decide

/-- The refused words of 95_test_vectors.md L2.8. -/
theorem test_decode_refused_phase_words :
    decodePhase 0x00A {} = .error (.reservedPhaseWord 0x00A) ∧
    decodePhase 0x07A {} = .error (.reservedPhaseWord 0x07A) ∧
    decodePhase 0x09A {} = .error (.reservedPhaseWord 0x09A) ∧
    decodePhase 0x011 {} = .error (.reservedPhaseWord 0x011) ∧
    decodePhase 0x00F {} = .error (.reservedPhaseWord 0x00F) ∧
    decodePhase 0x05F {} = .error (.reservedPhaseWord 0x05F) ∧
    decodePhase 0x11F {} = .error (.reservedPhaseWord 0x11F) := by decide

/-- R67: the six event codes, and the two never produced. -/
theorem test_decode_events :
    decodeTableWord 8 0b000 = some (.evProg []) ∧ decodeTableWord 8 0b001 = some (.evReset {}) ∧
    decodeTableWord 8 0b010 = some .evIrq ∧ decodeTableWord 8 0b011 = some .evSwi ∧
    decodeTableWord 8 0b100 = some .evNmi ∧ decodeTableWord 8 0b101 = some (.evStep .once {}) ∧
    decodeEvent 0b110 {} = .error (.reservedEvent 6) ∧
    decodeEvent 0b111 {} = .error (.reservedEvent 7) := by decide

/-- R68, R69: the rows of 95_test_vectors.md L2.4.1. -/
theorem test_decode_latch_bytes :
    decodeLatch 0b00000010 = .latch02Fdc0Drq ∧ decodeLatch 0b00000100 = .latch04Fdc1Drq ∧
    decodeLatch 0b00000110 = .latch06Fdc0Irq ∧ decodeLatch 0b00001000 = .latch08Fdc1Irq ∧
    decodeLatch 0b00001010 = .latch0ASer0Irq ∧ decodeLatch 0b00001100 = .latch0CSer1Irq ∧
    decodeLatch 0b00000000 = .latchReservedGuard ∧
    decodeLatch 0b00001011 = .latchReservedOdd 0b0000101 ∧
    decodeLatch 0b11111111 = .latchReservedOdd 0b1111111 ∧
    decodeLatch 0b00001110 = .latchReserved0E ∧
    decodeLatch 0b00011110 = .latchReserved10To1E 0b111 ∧
    decodeLatch 0b00100000 = .latchReserved20To3E 0b0000 ∧
    decodeLatch 0b01111110 = .latchReserved40To7E 0b11111 ∧
    decodeLatch 0b10000000 = .latchReserved80ToFE 0b000000 := by decide

/-- R70: the fixed addresses and the vectors. -/
theorem test_decode_fixed_addresses :
    decodeTableWord 16 0xF000 = some .addrBank0Read ∧
    decodeBus Config.c0 0xF000 (.write 5) = .ok (.addrBank0Write 5) ∧
    decodeTableWord 16 0xF0FF = some (.addrIntLatch (.read 0)) ∧
    decodeTableWord 16 0xFFFA = some (.addrVecNmi false) ∧
    decodeTableWord 16 0xFFFD = some (.addrVecReset true) ∧
    decodeTableWord 16 0xFFFE = some (.addrVecIrq false) ∧
    decodeBus Config.c0 0xFFFF (.write 0) = .error (.imageWrite 0xFFFF) := by decide

/-- R70 with the base addresses of C0: the table slots (95_test_vectors.md L2.9). -/
theorem test_decode_table_addresses :
    decodeTableWord 16 0xE000 = some (.addrJtSlot0 false) ∧
    decodeTableWord 16 0xE003 = some (.addrJtSlot1 true) ∧
    decodeTableWord 16 0xE004 = some (.addrJtSlot2 false) ∧
    decodeTableWord 16 0xE007 = some (.addrJtSlot3 true) ∧
    decodeTableWord 16 0xE008 = some (.addrJtSlot4 false) ∧
    decodeTableWord 16 0xE00B = some (.addrJtSlot5 true) ∧
    decodeTableWord 16 0xE00D = some (.addrJtSlot6 true) ∧
    decodeBus Config.c0 0xE00E (.read 0) = .error (.plainMemory 0xE00E) := by decide

/-- R70 with the base addresses of C0: the UART block and the window (95_test_vectors.md L2.9). -/
theorem test_decode_uart_and_window_addresses :
    decodeTableWord 16 0xD000 = some (.addrUartDataRead 0) ∧
    decodeBus Config.c0 0xD000 (.write 0x41) = .ok (.addrUartDataWrite 0x41) ∧
    decodeTableWord 16 0xD001 = some (.addrUartStatus (.read 0)) ∧
    decodeBus Config.c0 0xD002 (.write 0x09) = .ok (.addrUartCmd (.write 0x09)) ∧
    decodeTableWord 16 0xD003 = some (.addrUartCtrl (.read 0)) ∧
    decodeBus Config.c0 0xD004 (.read 0) = .error (.plainMemory 0xD004) ∧
    decodeTableWord 16 0x7FFF = some (.addrWindow 0x7FFF (.read 0)) ∧
    decodeBus Config.c0 0x8000 (.read 0) = .error (.plainMemory 0x8000) := by decide

/-- R79: the names of the pseudo-operations. -/
theorem test_decode_pseudo_names :
    decodeLine (.pseudo .withBank0 { action := .step [.cli] .done }) =
      .ok (.pseudoWithBank0 (.step [.cli] .done)) ∧
    decodeLine (.pseudo .activation { draws := { latch := [2] } }) =
      .ok (.pseudoActivation { latch := [2] }) ∧
    decodeLine (.pseudo .cli {}) = .ok .pseudoCli ∧ decodeLine (.pseudo .sei {}) = .ok .pseudoSei := by
  decide

/-! ### Single steps, expected values from 95_test_vectors.md -/

/-- L3.1 line 7: registers, PC and the mask of one program step; B2: `bankrd`. -/
theorem test_idle_ops :
    after (.idle [.setA 0xAA, .setPC 0x2000, .sei, .bankRd]) (idleState Config.c0)
      (fun t => (t.a, t.pc, t.imask, t.history)) =
        some (0x02, 0x2000, true, [.rd 0xF000 0x02]) := by decide

/-- E1. -/
theorem test_irq :
    after .evIrq (idleState Config.c0) (fun t => (t.history, t.pc, t.phase)) =
      some ([.irq, .rd 0xFFFE 0x00, .rd 0xFFFF 0xE1], 0xE100, 0x001) ∧
    after .evIrq (idleState Config.c0) (fun t => t.frames.map fun f => (f.ret, f.p, f.brk)) =
      some [(.prog 0x1234, 0x20, false)] := by decide

/-- E17: the depth check comes before the vector reads. -/
theorem test_irq_overflow :
    after .evIrq (inPhase depthCfg 0x05A) (fun t => (t.history, t.phase, t.frames.length)) =
      some ([.fault .stackOverflow 1], 0x02F, 1) := by decide

/-- E6, E11. -/
theorem test_swi :
    after .evSwi { idleState Config.c0 with imask := true }
      (fun t => (t.history, t.phase, t.frames.map fun f => (f.ret, f.p, f.brk))) =
        some ([.swi, .rd 0xFFFE 0x00, .rd 0xFFFF 0xE1], 0x001, [(.prog 0x1234, 0x20, true)]) := by
  decide

/-- E2, K1. -/
theorem test_ent_save :
    after .entSave { idleState Config.c1 with phase := 0x001, frames := [{ topFrame with sp := 0 }] }
      (fun t => (t.frames, t.phase)) = some ([{ topFrame with sp := 0xE0 }], 0x002) ∧
    after .entSave { idleState Config.c0 with
        phase := 0x001, x := 0x77, frames := [{ topFrame with sp := 0 }] }
      (fun t => (t.frames, t.phase)) = some ([{ topFrame with sp := 0, x := 0x77 }], 0x002) := by
  decide

/-- E7, and E9's read of an unwritten selector. -/
theorem test_ent_bank_read :
    after .entBankRead { inPhase Config.c0 0x002 with bank0 := some 0x05 }
      (fun t => (t.history, t.frames.map (·.bank), t.phase)) =
        some ([.rd 0xF000 0x05], [0x05], 0x004) ∧
    after .entBankRead { inPhase Config.c0 0x002 with bank0 := none }
      (fun t => (t.history, t.phase)) = some ([.fault .bankUnwritten 0xF000], 0x03F) := by decide

/-- K3, K4. -/
theorem test_ent_kstack_switch :
    after .entKstackSwitch { inPhase Config.c1 0x003 with ssel := .user, sp := 0xE0 }
      (fun t => (t.sp, t.ssel, t.phase)) = some (0xFF, .kernel, 0x004) ∧
    after .entKstackSwitch { inPhase Config.c1 0x003 with sp := 0xF7 }
      (fun t => (t.sp, t.ssel)) = some (0xF7, .kernel) := by decide

/-- E8: the force write is not elided. -/
theorem test_ent_bank_force :
    after .entBankForce (inPhase Config.c0 0x004) (fun t => (t.history, t.bank0, t.phase)) =
      some ([.wr 0xF000 0x00], some 0x00, 0x005) := by decide

/-- Q6, Q3: the break flag is the frame's, not a bit of P. -/
theorem test_dsp_brk_check :
    after .dspBrkCheck { inPhase { Config.c0 with brkMask := 0x04 } 0x005 with
        frames := [{ topFrame with brk := true }] }
      (fun t => (t.history, t.brkUnimpl, t.phase)) = some ([.brkUnimplemented], true, 0x00B) ∧
    after .dspBrkCheck { inPhase Config.c0 0x005 with frames := [{ topFrame with p := 0x10 }] }
      (fun t => (t.history, t.phase)) = some ([], 0x006) := by decide

/-- L2.4.1, rows $0C and $0E. -/
theorem test_dsp_latch_read :
    after (.dspLatchRead 0x0C) (inPhase Config.c0 0x006)
      (fun t => (t.history, t.off, t.phase)) = some ([.rd 0xF0FF 0x0C], 0x0C, 0x007) ∧
    after (.dspLatchRead 0x0E) (inPhase Config.c0 0x006)
      (fun t => (t.history, t.phase)) =
        some ([.rd 0xF0FF 0x0E, .fault .unmappedSource 0x0E], 0x01F) := by decide

/-- L2.4.2, row $0A. -/
theorem test_dsp_table :
    after .dspTableLo (inPhase Config.c0 0x007) (fun t => (t.history, t.lo, t.phase)) =
      some ([.rd 0xE00A 0x50], 0x50, 0x008) ∧
    after .dspTableHi (inPhase Config.c0 0x008) (fun t => (t.history, t.hi, t.phase)) =
      some ([.rd 0xE00B 0xE0], 0xE0, 0x009) := by decide

/-- L2.4.2, row $0A: PC and the handler. -/
theorem test_dsp_jump :
    after .dspJump { inPhase Config.c0 0x009 with lo := 0x50, hi := 0xE0, spins := 3 }
      (fun t => (t.pc, t.spins, t.phase)) = some (0xE050, 0, 0x05A) := by decide

/-- H2, H3. -/
theorem test_handler_fdc0_drq :
    after .handler10Fdc0Drq { inPhase Config.c0 0x01A with sectorPtr := 0xFFFF }
      (fun t => (t.sectorPtr, t.pc, t.phase)) = some (0x0000, 0xE180, 0x00B) ∧
    after .handler10Fdc0Drq { inPhase Config.c1 0x01A with sectorPtr := 0x1234 }
      (fun t => (t.sectorPtr, t.phase)) = some (0x1234, 0x00B) := by decide

/-- H4. -/
theorem test_no_op_handlers :
    after .handler20Fdc1Drq (inPhase Config.c0 0x02A) (fun t => (t.pc, t.phase, t.history)) =
      some (0xE180, 0x00B, []) ∧
    after .handler30Fdc0Irq (inPhase Config.c0 0x03A) (fun t => (t.pc, t.phase)) =
      some (0xE180, 0x00B) ∧
    after .handler40Fdc1Irq (inPhase Config.c0 0x04A) (fun t => (t.pc, t.phase)) =
      some (0xE180, 0x00B) ∧
    after .handler60Ser1 (inPhase Config.c0 0x06A) (fun t => (t.pc, t.phase)) =
      some (0xE180, 0x00B) := by decide

/-- H7, H6. -/
theorem test_ser0_rx_poll :
    after (.handler50Ser0RxPoll 0x10) (inPhase Config.c0 0x05A)
      (fun t => (t.history, t.phase)) = some ([.rd 0xD001 0x10], 0x05A) ∧
    after (.handler50Ser0RxPoll 0x08) (inPhase Config.c0 0x05A)
      (fun t => (t.history, t.phase)) = some ([.rd 0xD001 0x08], 0x0DA) := by decide

/-- H8, H11. -/
theorem test_ser0_data :
    after (.handler51Ser0RxRead 0x41) (inPhase Config.c0 0x0DA)
      (fun t => (t.history, t.rx, t.phase)) = some ([.rd 0xD000 0x41], 0x41, 0x15A) ∧
    after .handler53Ser0TxWrite { inPhase Config.c0 0x1DA with rx := 0x41 }
      (fun t => (t.history, t.pc, t.phase)) = some ([.wr 0xD000 0x41], 0xE180, 0x00B) := by decide

/-- H10, H13: the count a nested activation saved carries on. -/
theorem test_ser0_tx_poll :
    after (.handler52Ser0TxPoll 0x18) (inPhase Config.c0 0x15A)
      (fun t => (t.history, t.phase)) = some ([.rd 0xD001 0x18], 0x1DA) ∧
    after (.handler52Ser0TxPoll 0x00) { inPhase (spinCfg 2) 0x15A with spins := 1 }
      (fun t => (t.history, t.phase)) =
        some ([.rd 0xD001 0x00, .fault .spinLimit 0x00], 0x04F) := by decide

/-- T1, T3. -/
theorem test_rst_bank_write :
    after .rstBankWrite (inPhase Config.c0 0x00B) (fun t => (t.history, t.bank0, t.phase)) =
      some ([.wr 0xF000 0x02], some 0x02, 0x00D) ∧
    after .rstBankWrite (inPhase Config.c1 0x00B) (fun t => t.phase) = some 0x00C := by decide

/-- T4, T5. -/
theorem test_rst_kstack_and_pop :
    after .rstKstackRestore (inPhase Config.c1 0x00C) (fun t => (t.sp, t.ssel, t.phase)) =
      some (0xE0, .user, 0x00D) ∧
    after .rstPop { inPhase Config.c0 0x00D with a := 0x99 }
      (fun t => (t.a, t.x, t.y, t.phase)) = some (0x11, 0x22, 0x33, 0x00E) := by decide

/-- T6, T7. -/
theorem test_rst_rti :
    after .rstRti { inPhase Config.c0 0x00E with p := 0, pc := 0xE180 }
      (fun t => (t.p, t.pc, t.frames.length, t.phase)) = some (0x20, 0x1234, 0, 0x000) ∧
    after .rstRti { inPhase Config.c0 0x00E with
        pc := 0xE180, frames := [{ topFrame with ret := .hnd 5 2 0x41 0 }, topFrame] }
      (fun t => (t.p, t.pc, t.frames.length, t.rx, t.spins, t.phase)) =
        some (0x20, 0xE180, 1, 0x41, 0, 0x15A) := by decide

/-- L3.5 line 4, N5: nothing is enabled in FAULT. -/
theorem test_faulted_stops :
    (exec (.evReset {}) { inPhase Config.c0 0x01F with fault := some .unmappedSource } =
      .fault .unmappedSource) ∧
    exec .evNmi { inPhase Config.c0 0x01F with fault := some .unmappedSource } =
      .fault .unmappedSource := ⟨rfl, rfl⟩

/-- Z1, Z6, and the SP draw. -/
theorem test_reset :
    after (.evReset { sector := some 0xFFFE, sp := some 7 })
        { inPhase Config.c0 0x15A with imask := false, brkUnimpl := true }
      (fun t => (t.history, t.phase, t.pc, t.bank0)) =
        some ([.reset, .rd 0xFFFC 0x00, .rd 0xFFFD 0xE2], 0x000, 0xE200, none) ∧
    after (.evReset { sector := some 0xFFFE, sp := some 7 })
        { inPhase Config.c0 0x15A with imask := false, brkUnimpl := true }
      (fun t => (t.frames, t.imask, t.brkUnimpl, t.sectorPtr, t.sp)) =
        some ([], true, false, 0xFFFE, 7) := by decide

/-- N3. -/
theorem test_nmi :
    after .evNmi (inPhase Config.c0 0x00D) (fun t => (t.history, t.phase, t.frames)) =
      some ([.nmi, .rd 0xFFFA 0x00, .rd 0xFFFB 0xE3], 0x00D, [topFrame]) := by decide

/-- L3.2 line 3's stop: a `run` with no status byte left holds the activation at the poll. -/
theorem test_run_holds :
    after (.evStep .run { latch := [0x0A] }) { inPhase Config.c0 0x15A with rx := 0x41 }
      (fun t => (t.history, t.phase, t.script)) = some ([], 0x15A, []) ∧
    after (.evStep .run { status := [0x00, 0x10] }) (inPhase Config.c0 0x15A)
      (fun t => (t.history, t.script)) =
        some ([.rd 0xD001 0x00], [.event 5 { mode := .run, draws := { status := [0x10] } }]) := by
  decide

/-- B7: the restoring write is last, and page 0 is written; the read is the first program step. -/
theorem test_with_bank0 :
    after (.pseudoWithBank0 (.step [.wr 0x0010 0xAA] .done))
        { idleState Config.c0 with bank0 := some 0x03 }
      (fun t => t.history) = some [.rd 0xF000 0x03] ∧
    nextWith (core.run 4 { idleState Config.c0 with
        bank0 := some 0x03, script := withBank0Lines (.step [.wr 0x0010 0xAA] .done) })
      (fun t => t.history ==
          [.rd 0xF000 0x03, .wr 0xF000 0x00, .wr 0x0010 0xAA, .wr 0xF000 0x03] &&
        t.bank0 == some 0x03 && t.byteAt (bankedLoc 0 0x0010) 0 == 0xAA) = true := by decide

/-- R95: an IRQ inside the program's own `withBank0`, after its write of 0, saves and restores page 0,
and the program's restoring write still comes last. -/
theorem test_with_bank0_interrupted :
    nextWith (core.run 16 { idleState Config.c0 with
        bank0 := some 0x03,
        script := [.pseudo .withBank0 {}, .event 0 {},
          .pseudo .activation { draws := { latch := [0x04] } }, .event 0 {}] })
      (fun t => t.phase == 0x000 && t.bank0 == some 0x03 &&
        (t.history.filter fun e => [.wr 0xF000 0x00, .wr 0xF000 0x03].contains e) ==
          [.wr 0xF000 0x00, .wr 0xF000 0x00, .wr 0xF000 0x00, .wr 0xF000 0x03]) = true := by decide

/-- R79: `irq`, then the run of the activation, queued next. -/
theorem test_activation :
    after (.pseudoActivation { latch := [0x02] }) (idleState Config.c0)
      (fun t => (t.phase, t.script)) =
        some (0x001, [.event 5 { mode := .activation, draws := { latch := [0x02] } }]) := by decide

/-- R79. -/
theorem test_cli_sei :
    after .pseudoCli { idleState Config.c0 with imask := true } (fun t => t.imask) = some false ∧
    after .pseudoSei (idleState Config.c0) (fun t => t.imask) = some true := by decide

/-- B8, B9; and the byte a read was supplied with stays the location's (20_memory.md R60). -/
theorem test_window :
    after (.addrWindow 0x0100 (.read 0x5A)) { idleState Config.c0 with bank0 := some 0x07 }
      (fun t => (t.history, t.bank0, t.mem)) = some ([.rd 0x0100 0x5A], some 0x07, []) ∧
    after (.addrWindow 0x7FFF (.write 0x33)) (idleState Config.c0)
      (fun t => (t.history, t.byteAt (bankedLoc 2 0x7FFF) 0)) =
        some ([.wr 0x7FFF 0x33], 0x33) ∧
    after (.idle [.rd 0x0100 0x5A, .rd 0x0100 0x66, .rd 0x9000 0x77]) (idleState Config.c0)
      (fun t => t.history) =
        some [.rd 0x0100 0x5A, .rd 0x0100 0x5A, .rd 0x9000 0x77] := by decide

/-- R131: a step that faults leaves the state as before it, but for the events and the fault. -/
theorem test_precise_fault :
    exec (.idle [.setA 0x55, .wr 0xD000 0x41, .bankRd]) { idleState Config.c0 with bank0 := none } =
      .next { idleState Config.c0 with
        bank0 := none, history := [.wr 0xD000 0x41, .fault .bankUnwritten 0xF000],
        fault := some .bankUnwritten, phase := 0x03F } := rfl

/-- B1, B5. -/
theorem test_bank0_rows :
    after (.addrBank0Write 0x05) { idleState Config.c0 with bank0 := none }
      (fun t => (t.history, t.bank0)) = some ([.wr 0xF000 0x05], some 0x05) ∧
    after .addrBank0Read { idleState Config.c0 with bank0 := none }
      (fun t => (t.history, t.phase)) = some ([.fault .bankUnwritten 0xF000], 0x03F) := by decide

/-- C0's image bytes at the vectors and at slots 1 and 6. -/
theorem test_image_rows :
    after (.addrVecReset true) (idleState Config.c0) (fun t => t.history) =
      some [.rd 0xFFFD 0xE2] ∧
    after (.addrJtSlot1 false) (idleState Config.c0) (fun t => t.history) =
      some [.rd 0xE002 0x10] ∧
    after (.addrJtSlot6 true) (idleState Config.c0) (fun t => t.history) =
      some [.rd 0xE00D 0xE0] := by decide

/-- S6. -/
theorem test_uart_rows :
    after (.addrUartCmd (.write 0x09)) (idleState Config.c0) (fun t => (t.history, t.bank0)) =
      some ([.wr 0xD002 0x09], some 0x02) := by decide

/-! ### Placing a word for the next step -/

/-- A phase word, a latch byte and a bus address, each run by the very next step after reset. -/
theorem test_fetch_word :
    nextWith (step (State.reset.withFetchWord 16 0x005)) (fun t => t.phase == 0x006) = true ∧
    nextWith (step (State.reset.withFetchWord 8 0x0C)) (fun t => t.off == 0x0C) = true ∧
    nextWith (step (State.reset.withFetchWord 16 0xF0FF))
      (fun t => t.history.getLast? == some (.rd 0xF0FF 0x00)) = true := by decide

/-! ### Witnesses: for every obligation with hypotheses, a state and operands that meet them -/

/-- The invariant at IDLE. -/
theorem inv_idle : Inv (idleState Config.c0) where
  cfg_ok := by decide
  mem_wf := rfl
  sp_lt := by decide
  frames_sp_lt := by decide
  live := fun _ =>
    { phase_row := by decide
      idle_iff := by decide
      frames_ok := trivial
      stack_ok := by decide
      bank_ok := by decide
      depth_le := by decide
      kstack_phases := by decide
      off_ok := by decide }
  faulted := fun _ h => by cases h

/-- The invariant in an outermost activation with the kernel stack, at the receive poll. -/
theorem inv_poll : Inv (inPhase Config.c1 0x05A) where
  cfg_ok := by decide
  mem_wf := rfl
  sp_lt := by decide
  frames_sp_lt := by decide
  live := fun _ =>
    { phase_row := by decide
      idle_iff := by decide
      frames_ok := ⟨⟨fun _ => rfl, by rw [if_pos rfl]; exact ⟨rfl, fun _ _ => rfl⟩⟩, trivial⟩
      stack_ok := by decide
      bank_ok := by decide
      depth_le := by decide
      kstack_phases := by decide
      off_ok := by decide }
  faulted := fun _ h => by cases h

theorem test_witness_StepRunsDecodedLine :
    admitted Config.c0 = true ∧ decodeLine (.event 5 {}) = .ok (.evStep .once {}) ∧
    (nextLine { idleState Config.c0 with script := [.event 5 {}] }).1 = .event 5 {} ∧
    { idleState Config.c0 with script := [.event 7 {}] }.script = [.event 7 {}] ∧
    (idleState Config.c0).script = [] := ⟨by decide, rfl, rfl, rfl, rfl⟩

theorem test_witness_AdmissionChecksConfiguration :
    admitted Config.c0 = true ∧ jumpEntry Config.c0 6 = some 0xE060 ∧
    admitted { Config.c0 with nBanks := 0 } = false := by decide

theorem test_witness_DecodeEncodeRoundTrip :
    admitted Config.c1 = true ∧ Instr.wf Config.c1 (.addrWindow 0x7FFF (.write 0xFF)) = true ∧
    Instr.wf Config.c1 .rstKstackRestore = true := by decide

theorem test_witness_BusAndLatchEncodeDecode :
    admitted Config.c0 = true ∧
    decodeBus Config.c0 0xFFFF (.read 3) = .ok (.addrVecIrq true) := by decide

theorem test_witness_StepEventRunsPhaseWord :
    Running (inPhase Config.c0 0x05A) ∧ (inPhase Config.c0 0x05A).phase ≠ 0x000 ∧
    decodePhase 0x05A (stepVals { status := [0x08] } (inPhase Config.c0 0x05A)) =
      .ok (.handler50Ser0RxPoll 0x08) := ⟨⟨rfl, rfl⟩, by decide, rfl⟩

theorem test_witness_UnmatchedPhaseWordsRefused :
    admitted Config.c0 = true ∧ (inPhase Config.c0 0x003).fault = none ∧
    (inPhase Config.c0 0x003).frames ≠ [] := by decide

/-- A first part that faults, and one that goes on to a second that completes, faults, or is refused. -/
theorem test_witness_ProgramOpsRunInOrder :
    (idleState Config.c0).fault = none ∧
    nextWith (exec (.idle [.bankRd]) (idleState Config.c0)) (fun t => t.fault == none &&
      nextWith (exec (.idle [.cli]) t) (fun u => u.fault == none) &&
      !nextWith (exec (.idle [.wr 0xFFFA 0]) t) (fun _ => true)) = true ∧
    nextWith (exec (.idle [.bankRd]) { idleState Config.c0 with bank0 := none })
      (fun t => t.fault != none) = true ∧
    nextWith (exec (.idle [.setA 5]) { idleState Config.c0 with bank0 := none })
      (fun t => t.fault == none &&
        nextWith (exec (.idle [.bankRd]) t) (fun u => u.fault != none)) = true := by decide

theorem test_witness_ProgramStepCompletesAndKeeps :
    admitted Config.c0 = true ∧ AtIdle (idleState Config.c0) ∧
    opsWf Config.c0 [.setSP 255, .bankRd] = true ∧ (idleState Config.c0).pending = .done ∧
    (∀ a v, ProgOp.wr a v ∉ [ProgOp.setSP 255, ProgOp.bankRd]) ∧
    (∀ a v, ProgOp.rd a v ∉ [ProgOp.setSP 255, ProgOp.bankRd]) ∧
    ∀ w, ({ idleState Config.c0 with mem := [(bankedLoc 2 0x7FFF, 0x33)] } : State).byteAt
      (bankedLoc 2 0x7FFF) w = 0x33 :=
  ⟨by decide, ⟨rfl, rfl⟩, by decide, rfl, by simp, by simp,
    fun w => by simp [State.byteAt, Memory.lookup]⟩

theorem test_witness_BankSwitchReadAndWrite :
    (idleState Config.c0).bank0 = some 0x02 ∧ (State.resetOf Config.c0).bank0 = none := ⟨rfl, rfl⟩

/-- The poll clauses: ready, unready without a limit, one below the limit, at the limit. -/
theorem test_witness_ProgramPollsStatus :
    admitted (spinCfg 2) = true ∧ (0x18 &&& 0x08#8 ≠ 0 ∧ 0xF7 &&& 0x08#8 = 0) ∧
    (0x18 &&& 0x10#8 ≠ 0 ∧ 0xEF &&& 0x10#8 = 0) ∧ Config.c0.maxSpins = none ∧
    (spinCfg 2).maxSpins ≠ none ∧ (spinCfg 2).maxSpins = some 2 ∧ (idleState (spinCfg 2)).spins + 1 < 2 ∧
    2 ≤ { idleState (spinCfg 2) with spins := 1 }.spins + 1 := by decide

/-- An action of one step with a `withBank0` inside, NMIs before its write of 0 and before the last
step; and the unwritten selector. -/
theorem test_witness_WithBank0RestoresSelector :
    let action := ProgSeq.step [.wr 0x0010 0xAA] (.withBank0 .done .done)
    let ls := [Line.event 4 {}, .event 0 {}, .event 0 {}, .event 0 {}, .event 0 {}, .event 0 {},
      .event 4 {}, .event 0 {}]
    let s := { idleState Config.c0 with
      script := .pseudo .withBank0 { action := action } :: (ls ++ [.event 3 {}]) }
    admitted s.cfg = true ∧ AtIdle s ∧ s.pending = .done ∧ s.bank0 = some 0x02 ∧
    action.wf s.cfg = true ∧ (∀ l ∈ ls, l = .event 4 {} ∨ l = .event 0 {}) ∧
    ls.count (.event 0 {}) = seqLength action + 2 ∧ ls.getLast? = some (.event 0 {}) ∧
    { idleState Config.c0 with bank0 := none }.bank0 = none ∧
    nextWith (core.run 9 s) (fun t => t.bank0 == some 0x02 && t.script == [.event 3 {}] &&
      t.fault == none && t.pending == .done) = true :=
  ⟨by decide, ⟨rfl, rfl⟩, rfl, rfl, by decide, by decide, by decide, by decide, rfl, by decide⟩

theorem test_witness_MaskPseudoOps :
    AtIdle (idleState Config.c0) ∧ (idleState Config.c0).pending = .done ∧
    Running (inPhase Config.c0 0x00D) ∧ (inPhase Config.c0 0x00D).phase ≠ 0x000 ∧
    { idleState Config.c0 with pending := .step [.setA 7] .done }.pending =
      .step [.setA 7] .done ∧
    nextWith (exec (.idle [.setA 7]) (idleState Config.c0)) (fun t => t.fault == none) = true ∧
    nextWith (exec (.idle [.bankRd]) { idleState Config.c0 with bank0 := none })
      (fun t => t.fault != none) = true :=
  ⟨⟨rfl, rfl⟩, rfl, ⟨rfl, rfl⟩, by decide, rfl, by decide, by decide⟩

/-- A line that meets a pending step is put back, the step taken, and the line then runs (log 19). -/
theorem test_pending_first :
    nextWith (step { idleState Config.c0 with
        pending := .step [.setA 7] .done, script := [.event 0 { ops := [.setX 9] }] })
      (fun t => t.a == 7 && t.x == 0x22 && t.script == [.event 0 { ops := [.setX 9] }] &&
        nextWith (step t) (fun u => u.x == 9 && u.script == [])) = true := by decide

/-- The statements about a step on the top frame, by the frame's, the selector's and KSTACK's cases. -/
theorem test_witness_top_frame_steps :
    (inPhase Config.c0 0x001).frames = topFrame :: [] ∧ (inPhase Config.c0 0x002).bank0 = some 0 ∧
    { inPhase Config.c0 0x002 with bank0 := none }.bank0 = none ∧ Config.c1.kstack = true ∧
    Config.c0.kstack = false ∧ (inPhase Config.c1 0x003).ssel = .kernel ∧
    { inPhase Config.c1 0x003 with ssel := .user }.ssel = .user ∧ admitted Config.c0 = true ∧
    topFrame.brk = false ∧ { topFrame with brk := true }.brk = true ∧
    topFrame.ret = .prog 0x1234 ∧ { topFrame with ret := .hnd 5 3 0x41 7 }.ret = .hnd 5 3 0x41 7 := by
  decide

/-- NMIs before, between and after the Entering steps, with and without the kernel stack. -/
theorem test_witness_EnteringSequence :
    let ls := [Line.event 5 {}, .event 4 {}, .event 5 {}, .event 5 {}, .event 4 {}]
    let s := { idleState Config.c0 with script := .event 2 {} :: ls }
    admitted s.cfg = true ∧ AtIdle s ∧ s.imask = false ∧ s.frames = [] ∧ s.bank0 = some 0x02 ∧
    (∀ l ∈ ls, l = .event 4 {} ∨ l = .event 5 {}) ∧ ls.count (.event 5 {}) = 3 ∧
    (Line.event 5 {} :: ls).count (.event 5 {}) = (if Config.c1.kstack then 4 else 3) :=
  ⟨by decide, ⟨rfl, rfl⟩, rfl, rfl, rfl, by decide, by decide, by decide⟩

/-- And the sequence runs to DSP_BRK_CHECK (vector E5). -/
theorem test_entering_run :
    nextWith (core.run 4 { idleState Config.c0 with
        script := [.event 2 {}, .event 5 {}, .event 5 {}, .event 5 {}] })
      (fun t => t.phase == 0x005 && t.history ==
        [.irq, .rd 0xFFFE 0x00, .rd 0xFFFF 0xE1, .rd 0xF000 0x02, .wr 0xF000 0x00]) = true := by
  decide

theorem test_witness_dispatching :
    0x0C ∈ sourceLatches ∧ 0x0E ∉ sourceLatches ∧ admitted Config.c0 = true ∧
    jumpEntry Config.c0 1 = some 0xE010 ∧ (0x02 : Byte) = BitVec.ofNat 8 (2 * 1) ∧
    jumpEntry Config.c0 6 = some 0xE060 ∧ (0x0C : Byte) = BitVec.ofNat 8 (2 * 6) := by decide

theorem test_witness_DispatchSequence :
    let s := { inPhase Config.c0 0x006 with
      script := stepLine { latch := [0x0C] } :: (List.replicate 3 (.event 5 {}) ++ []) }
    admitted s.cfg = true ∧ s.fault = none ∧ s.phase = 0x006 ∧
    nextWith (core.run 4 s) (fun t => t.pc == 0xE060 && t.phase == 0x06A) = true := by decide

theorem test_witness_handlers :
    Config.c0.sector = true ∧ Config.c1.sector = false ∧ admitted (spinCfg 1) = true ∧
    (inPhase (spinCfg 1) 0x05A).fault = none ∧ isHandler 0x1DA = true ∧
    nextWith (exec (.evStep .once { status := [0] }) (inPhase (spinCfg 1) 0x05A))
      (fun t => t.fault == some .spinLimit) = true ∧
    nextWith (exec (.evStep .once {}) (inPhase Config.c0 0x1DA))
      (fun t => t.phase == 0x00B) = true ∧
    nextWith (exec (.evStep .once { status := [0] }) (inPhase Config.c0 0x15A))
      (fun t => t.phase == 0x15A) = true := by decide

theorem test_witness_FaultedStateHasNoStep :
    { inPhase Config.c0 0x04F with fault := some .spinLimit }.fault = some .spinLimit ∧
    decodeLine (.pseudo .sei {}) = .ok .pseudoSei := ⟨rfl, rfl⟩

theorem test_witness_ResetEventResetsState :
    admitted Config.c0 = true ∧ Running (inPhase Config.c0 0x15A) ∧
    ∀ v, ({ sp := some 255 } : ResetDraws).sp = some v → v < 2 ^ Config.c0.spW :=
  ⟨by decide, ⟨rfl, rfl⟩, fun v h => by cases h; decide⟩

theorem test_witness_StateAfterReset :
    admitted Config.c1 = true ∧ (inPhase Config.c1 0x00C).cfg = Config.c1 ∧
    nextWith (exec (.evReset {}) (inPhase Config.c1 0x00C)) (fun t => t.imask) = true := by decide

/-- Acceptance at IDLE and in a handler, below MAX_DEPTH and at it. -/
theorem test_witness_IrqAcceptance :
    admitted depthCfg = true ∧ AtIdle (idleState depthCfg) ∧ (idleState depthCfg).imask = false ∧
    (idleState depthCfg).frames.length ≠ depthCfg.maxDepth ∧
    (inPhase depthCfg 0x1DA).frames.length = depthCfg.maxDepth ∧
    isHandler (inPhase depthCfg 0x1DA).phase = true ∧ depthCfg.nestEnable = true ∧
    (inPhase depthCfg 0x1DA).imask = false ∧
    (inPhase Config.c0 0x05A).frames.length ≠ Config.c0.maxDepth :=
  ⟨by decide, ⟨rfl, rfl⟩, by decide⟩

theorem test_witness_SwiAcceptance :
    admitted depthCfg = true ∧ AtIdle (inPhase depthCfg 0x000) ∧
    (inPhase depthCfg 0x000).frames.length = depthCfg.maxDepth ∧ AtIdle (idleState depthCfg) ∧
    (idleState depthCfg).frames.length ≠ depthCfg.maxDepth :=
  ⟨by decide, ⟨rfl, rfl⟩, rfl, ⟨rfl, rfl⟩, by decide⟩

theorem test_witness_InterruptsOnlyAtAcceptancePoints :
    Running (State.resetOf Config.c0) ∧ (State.resetOf Config.c0).imask = true ∧
    Running (inPhase Config.c0 0x00D) ∧ isHandler (inPhase Config.c0 0x00D).phase = false ∧
    Running (inPhase { Config.c0 with nestEnable := false } 0x05A) :=
  ⟨⟨rfl, rfl⟩, rfl, ⟨rfl, rfl⟩, rfl, ⟨rfl, rfl⟩⟩

theorem test_witness_NmiChangesNothingElse :
    admitted Config.c0 = true ∧ Running (inPhase Config.c0 0x004) := ⟨by decide, ⟨rfl, rfl⟩⟩

/-- A repeated step that goes on, one that ends at RST_RTI, one that faults, one with no draw left. -/
theorem test_witness_RunAndActivationRepeatSteps :
    Running (inPhase Config.c0 0x05A) ∧ StepMode.run ≠ .once ∧
    nextWith (exec (.evStep .once { status := [8] }) (inPhase Config.c0 0x05A))
      (fun t => t.phase == 0x0DA && t.fault == none) = true ∧
    nextWith (exec (.evStep .once {}) (inPhase Config.c0 0x00E)) (fun t => t.phase == 0x000) = true ∧
    nextWith (exec (.evStep .once { latch := [0] }) (inPhase Config.c0 0x006))
      (fun t => t.fault == some .unmappedSource) = true ∧
    drawMissing {} 0x05A = true ∧ drawMissing { status := [8] } 0x05A = false ∧
    (inPhase Config.c0 0x05A).frames.length ≠ Config.c0.maxDepth :=
  ⟨⟨rfl, rfl⟩, by decide, by decide, by decide, by decide, by decide, by decide, by decide⟩

theorem test_witness_DispatcherStepCompletes :
    Inv (inPhase Config.c1 0x05A) ∧ (inPhase Config.c1 0x05A).fault = none ∧
    (inPhase Config.c1 0x05A).phase ≠ 0x000 := ⟨inv_poll, rfl, by decide⟩

theorem test_witness_bus_rows :
    admitted Config.c0 = true ∧
    decodeBus Config.c0 0xF000 (.read 0) = .ok .addrBank0Read ∧
    decodeBus Config.c0 0xD003 (.write 1) = .ok (.addrUartCtrl (.write 1)) ∧
    addrTarget Config.c0 0x8000 = .memory ∧ addrTarget Config.c0 0xFFFA = .vector ∧
    addrTarget Config.c0 0xE00D = .table ∧ addrTarget Config.c0 0x0000 = .window ∧
    (3#8).toNat < Config.c0.nBanks ∧ Config.c0.nBanks ≤ (4#8).toNat ∧
    (State.resetOf Config.c0).bank0 = none := by decide

/-- The page of a write while the selector is unwritten exists where N_BANKS is 256. -/
theorem test_witness_unwritten_window :
    let s := State.resetOf { Config.c0 with nBanks := 256 }
    s.bank0 = none ∧ addrTarget s.cfg 0x7FFF = .window ∧ (writePage s).toNat < s.cfg.nBanks :=
  ⟨rfl, by decide, (writePage _).isLt⟩

/-- A step from a state with the invariant, at IDLE and in an activation. -/
theorem test_witness_StepKeepsInvariant :
    Inv (idleState Config.c0) ∧ admitted (idleState Config.c0).cfg = true ∧
    Inv { idleState Config.c0 with script := [.event 2 {}] } ∧
    nextWith (step { idleState Config.c0 with script := [.event 2 {}] })
      (fun t => t.phase == 0x001) = true :=
  ⟨inv_idle, by decide,
    ⟨inv_idle.cfg_ok, inv_idle.mem_wf, inv_idle.sp_lt, inv_idle.frames_sp_lt,
      fun h => ⟨(inv_idle.live h).phase_row, (inv_idle.live h).idle_iff,
        (inv_idle.live h).frames_ok, (inv_idle.live h).stack_ok, (inv_idle.live h).bank_ok,
        (inv_idle.live h).depth_le, (inv_idle.live h).kstack_phases, (inv_idle.live h).off_ok⟩,
      inv_idle.faulted⟩, by decide⟩

/-- A step that changes the mask at IDLE, one that sets the break record, one that clears both. -/
theorem test_witness_MaskAndBreakRecordWriters :
    nextWith (step { idleState Config.c0 with script := [.pseudo .sei {}] })
      (fun t => t.imask) = true ∧
    nextWith (step { inPhase Config.c0 0x005 with
        frames := [{ topFrame with brk := true }], script := [.event 5 {}] })
      (fun t => t.brkUnimpl) = true ∧
    nextWith (step { inPhase Config.c0 0x00D with brkUnimpl := true, script := [.event 1 {}] })
      (fun t => !t.brkUnimpl && t.imask) = true := by decide

/-- Both writers of the sector counter, and the three of BANK0 outside the program. -/
theorem test_witness_sector_and_bank_writers :
    nextWith (step { inPhase Config.c0 0x01A with script := [.event 5 {}] })
      (fun t => t.sectorPtr == 1) = true ∧
    nextWith (step { inPhase Config.c0 0x02A with script := [.event 1 { regs := { sector := some 9 } }] })
      (fun t => t.sectorPtr == 9 && t.bank0 == none) = true ∧
    nextWith (step { inPhase Config.c0 0x004 with
        bank0 := some 0x02, script := [.event 5 {}] }) (fun t => t.bank0 == some 0) = true ∧
    nextWith (step { inPhase Config.c0 0x00B with script := [.event 5 {}] })
      (fun t => t.bank0 == some 0x02) = true := by decide

/-- Each way the frame stack changes. -/
theorem test_witness_FramesChangeOnlyOnTop :
    nextWith (step { inPhase Config.c0 0x05A with script := [.event 2 {}] })
      (fun t => t.frames.length == 2) = true ∧
    nextWith (step { inPhase Config.c0 0x001 with a := 0x77, script := [.event 5 {}] })
      (fun t => t.frames == [{ topFrame with a := 0x77 }]) = true ∧
    nextWith (step { inPhase Config.c0 0x00E with script := [.event 5 {}] })
      (fun t => t.frames == []) = true := by decide

/-- An IRQ from FDC channel 1 from acceptance to RST_RTI, one line a step. -/
def activationStart : State :=
  { idleState Config.c0 with
    script := .event 2 {} :: (List.replicate 4 (.event 5 {}) ++
      stepLine { latch := [0x04] } :: List.replicate 7 (.event 5 {})) }

/-- The state after its acceptance. -/
def activationEntered : State :=
  match step activationStart with
  | .next t => t
  | _ => activationStart

theorem test_witness_ActivationRestoresContext :
    Inv activationStart ∧ AtIdle activationStart ∧
    step activationStart = .next activationEntered ∧ activationEntered.phase = 0x001 ∧
    ∃ u, FirstActivationEnd activationEntered 12 u := by
  refine ⟨⟨inv_idle.cfg_ok, inv_idle.mem_wf, inv_idle.sp_lt, inv_idle.frames_sp_lt,
      fun h => ⟨(inv_idle.live h).phase_row, (inv_idle.live h).idle_iff,
        (inv_idle.live h).frames_ok, (inv_idle.live h).stack_ok, (inv_idle.live h).bank_ok,
        (inv_idle.live h).depth_le, (inv_idle.live h).kstack_phases, (inv_idle.live h).off_ok⟩,
      inv_idle.faulted⟩, ⟨rfl, rfl⟩, rfl, rfl, ?_⟩
  have run : nextWith (core.run 12 activationEntered) (fun u =>
      u.phase == 0x000 &&
        !(u.history.drop activationEntered.history.length).contains .reset) = true := by decide
  have inside : ∀ m < 12,
      nextWith (core.run m activationEntered) (fun v => v.phase != 0x000) = true := by decide
  obtain ⟨u, hu, hc⟩ := (nextWith_iff _ _).mp run
  simp only [Bool.and_eq_true, beq_iff_eq, Bool.not_eq_true', List.contains_eq_mem,
    decide_eq_false_iff_not] at hc
  refine ⟨u, hu, hc.1, fun m v hm hv => ?_, hc.2⟩
  obtain ⟨w, hw, hp⟩ := (nextWith_iff _ _).mp (inside m hm)
  have hwv : w = v := by
    have := hw.symm.trans hv
    injection this
  rw [← hwv]
  show ¬ w.phase = 0#9
  simpa using hp

/-- The run of 44_handlers.md R124 in 95_test_vectors.md L2.4.3: statuses $00, $08, data $41, statuses
$00, $10. -/
theorem test_witness_SerialEchoRoundTrip :
    let s := { inPhase Config.c0 0x05A with
      script := [stepLine { status := [0x00] }, stepLine { status := [0x08] },
        stepLine { data := [0x41] }, stepLine { status := [0x00] }, stepLine { status := [0x10] },
        .event 5 {}] }
    admitted s.cfg = true ∧ s.cfg.maxSpins = none ∧ s.fault = none ∧ s.phase = 0x05A ∧
    (∀ v ∈ [0x00#8], v &&& 0x08 = 0 ∧ v &&& 0x10 = 0) ∧ 0x08#8 &&& 0x08 ≠ 0 ∧ 0x10#8 &&& 0x10 ≠ 0 ∧
    nextWith (core.run 6 s) (fun t => t.phase == 0x00B && t.history ==
      [.rd 0xD001 0x00, .rd 0xD001 0x08, .rd 0xD000 0x41, .rd 0xD001 0x00, .rd 0xD001 0x10,
        .wr 0xD000 0x41]) = true := by decide

theorem test_witness_ZeroFillClearsRange :
    (∀ c, (idleState Config.c0).bank0 = some c → c = 0x02) ∧
    ∀ i < Config.c0.zfLen, reaches (idleState Config.c0)
      (Config.c0.zfBase + BitVec.ofNat 16 i) := by
  refine ⟨fun c h => by cases h; rfl, fun i hi => .inr ⟨?_, 0x02, rfl, by decide⟩⟩
  have all : ∀ i < 16, addrTarget Config.c0 (0x0200 + BitVec.ofNat 16 i) = .window := by decide
  exact all i hi

/-- Two rounds of the echo loop and a third whose receive wait does not end. -/
theorem test_witness_PolledEchoLoopEchoes :
    let rounds := [EchoRound.mk [0x00, 0x08] 0x41 [0x10], .mk [0x08] 0x42 [0x00, 0x10],
      .mk [0x10] 0x43 [0x10]]
    let s := { idleState Config.c1 with script := echoLines Config.c1 rounds ++ [.event 3 {}] }
    admitted s.cfg = true ∧ s.cfg.maxSpins = none ∧ AtIdle s ∧ s.pending = .done ∧
    (0x00#8 &&& 0x08 = 0 ∧ 0x08#8 &&& 0x08 ≠ 0 ∧ 0x00#8 &&& 0x10 = 0 ∧ 0x10#8 &&& 0x10 ≠ 0) ∧
    0x10#8 &&& 0x08 = 0 ∧
    nextWith (core.run 11 s) (fun t => t.script == [.event 3 {}] && t.history ==
      [.rd 0xD001 0x00, .rd 0xD001 0x08, .rd 0xD000 0x41, .rd 0xD001 0x10, .wr 0xD000 0x41,
        .rd 0xD001 0x08, .rd 0xD000 0x42, .rd 0xD001 0x00, .rd 0xD001 0x10, .wr 0xD000 0x42,
        .rd 0xD001 0x10]) = true :=
  ⟨by decide, by decide, ⟨rfl, rfl⟩, rfl, by decide, by decide, by decide⟩

end Sys2Proof.Tests
end

/-! PROOFS. What the admission check of a configuration says, item by item (00_scope.md R10): each
Boolean item of `admitted` as the proposition over addresses and entries that the rule writes. -/

namespace Sys2Proof.Proofs.Admission

open Sys2Proof Sys2Proof.Machine

/-! ### The blocks of addresses R10 names -/

/-- The vectors run to the top of the address space, so an address is outside them exactly when it is
below $FFFA. -/
theorem inVectors_eq_false_iff (a : Addr) : inVectors a = false ↔ a < 0xFFFA := by
  rw [inVectors, decide_eq_false_iff_not, BitVec.not_le, nmiVector]

theorem not_mem_fixedAddrs_iff (a : Addr) :
    a ∉ fixedAddrs ↔ a ≠ 0xF000 ∧ a ≠ 0xF0FF ∧ a < 0xFFFA := by
  rw [mem_fixedAddrs_iff, not_or, not_or, Bool.not_eq_true, inVectors_eq_false_iff, bank0Addr,
    latchAddr]

theorem mem_uartAddrs_iff (cfg : Cfg) (a : Addr) :
    a ∈ uartAddrs cfg ↔ ∃ r < 4, a = cfg.uartBase + BitVec.ofNat 16 r := by
  have block : uartAddrs cfg = (List.range 4).map (cfg.uartBase + BitVec.ofNat 16 ·) := by
    simp [uartAddrs, uartData, uartStatus, uartCmd, uartCtrl, List.range_succ]
  simp only [block, List.mem_map, List.mem_range, eq_comm]

theorem not_mem_uartAddrs_iff (cfg : Cfg) (a : Addr) :
    a ∉ uartAddrs cfg ↔ ∀ r < 4, a ≠ cfg.uartBase + BitVec.ofNat 16 r := by
  simp only [mem_uartAddrs_iff, not_exists, not_and, ne_eq]

/-- The 14 table addresses are counted from the base modulo 2^16 (30_encoding.md R70). -/
theorem inTable_iff (cfg : Cfg) (a : Addr) :
    inTable cfg a = true ↔ ∃ o < 14, a = cfg.tableBase + BitVec.ofNat 16 o := by
  rw [inTable, decide_eq_true_eq]
  constructor
  · intro h
    refine ⟨tableOffset cfg a, h, ?_⟩
    rw [tableOffset, BitVec.ofNat_toNat, BitVec.setWidth_eq, BitVec.add_comm,
      BitVec.sub_add_cancel]
  · rintro ⟨o, ho, rfl⟩
    rw [tableOffset, add_sub_cancel_left', BitVec.toNat_ofNat]
    omega

theorem inWindow_iff (cfg : Cfg) (a : Addr) :
    inWindow cfg a = true ↔ cfg.winLo ≤ a ∧ a ≤ cfg.winHi := by
  rw [inWindow, Bool.and_eq_true, decide_eq_true_eq, decide_eq_true_eq]

/-! ### The bytes of the image -/

/-- A little-endian entry spells an address exactly when it holds its two bytes (20_memory.md R41). -/
theorem entryValue_eq_iff (e : Entry) (j : Addr) :
    entryValue e = j ↔ e.lo = lowByte j ∧ e.hi = highByte j := by
  constructor
  · rintro rfl
    simp [entryValue]
  · rintro ⟨hlo, hhi⟩
    apply BitVec.eq_of_toNat_eq
    have hj := j.isLt
    rw [entryValue, hlo, hhi, word16_toNat, highByte, lowByte, BitVec.extractLsb'_toNat,
      BitVec.extractLsb'_toNat, Nat.shiftRight_eq_div_pow, Nat.shiftRight_zero]
    omega

/-- The bytes of slot `k` are bytes `2k` and `2k+1` of the table (20_memory.md R48). -/
theorem tableByte_slotAddr (cfg : Cfg) (k : Nat) (hi : Bool) (hk : k < 7) :
    tableByte cfg (slotAddr cfg k hi) = (tableBytes cfg).getD (2 * k + hi.toNat) 0 := by
  rw [tableByte, tableOffset_slotAddr cfg k hi hk]

/-- Only the handler indices 1 to 6 have a `JT` entry (00_scope.md R9). -/
theorem forall_jumpEntry_iff (cfg : Cfg) (P : Nat → Addr → Prop) :
    (∀ k j, jumpEntry cfg k = some j → P k j) ↔
      P 1 cfg.jt1 ∧ P 2 cfg.jt2 ∧ P 3 cfg.jt3 ∧ P 4 cfg.jt4 ∧ P 5 cfg.jt5 ∧ P 6 cfg.jt6 := by
  constructor
  · intro h
    exact ⟨h 1 _ rfl, h 2 _ rfl, h 3 _ rfl, h 4 _ rfl, h 5 _ rfl, h 6 _ rfl⟩
  · rintro ⟨h1, h2, h3, h4, h5, h6⟩ k j hk
    unfold jumpEntry at hk
    split at hk
    case h_7 => cases hk
    all_goals (cases hk; assumption)

/-! ### The items of R10 -/

theorem vectorsSpell_iff (cfg : Cfg) :
    vectorsSpell cfg = true ↔
      entryValue cfg.vec.nmi = cfg.nmiEntry ∧ entryValue cfg.vec.reset = cfg.resetEntry ∧
        entryValue cfg.vec.irq = cfg.dispatchEntry := by
  simp only [vectorsSpell, Bool.and_eq_true, decide_eq_true_eq, and_assoc]

/-- A list avoids a range exactly when no address of the range is in the list. -/
theorem all_not_iff (l : List Addr) (inRange : Addr → Bool) :
    (l.all fun a => !inRange a) = true ↔ ∀ a, inRange a = true → a ∉ l := by
  simp only [List.all_eq_true, Bool.not_eq_true', ← Bool.not_eq_true]
  exact forall_congr' fun a => imp_not_comm

/-- R10 (b) and the first half of R10 (f) test the same addresses. -/
theorem not_mem_fixed_uart_iff (cfg : Cfg) (a : Addr) :
    a ∉ fixedAddrs ++ uartAddrs cfg ↔
      a ≠ 0xF000 ∧ a ≠ 0xF0FF ∧ a < 0xFFFA ∧ ∀ r < 4, a ≠ cfg.uartBase + BitVec.ofNat 16 r := by
  rw [List.mem_append, not_or, not_mem_fixedAddrs_iff, not_mem_uartAddrs_iff, and_assoc, and_assoc]

theorem windowClear_iff (cfg : Cfg) :
    windowClear cfg = true ↔
      ∀ a : Addr, cfg.winLo ≤ a → a ≤ cfg.winHi →
        a ≠ 0xF000 ∧ a ≠ 0xF0FF ∧ a < 0xFFFA ∧
          ∀ r < 4, a ≠ cfg.uartBase + BitVec.ofNat 16 r := by
  simp only [windowClear, all_not_iff, inWindow_iff, not_mem_fixed_uart_iff, and_imp]

/-- The eight masks of R10 (d) are the shifts of bit 0. -/
theorem depthAndMask_iff (cfg : Cfg) :
    depthAndMask cfg = true ↔ 1 ≤ cfg.maxDepth ∧ ∃ k < 8, cfg.brkMask = 1#8 <<< k := by
  have masks : ([0x01, 0x02, 0x04, 0x08, 0x10, 0x20, 0x40, 0x80] : List Byte) =
      (List.range 8).map (1#8 <<< ·) := by decide
  rw [depthAndMask, masks, Bool.and_eq_true, decide_eq_true_eq, List.contains_iff_mem,
    List.mem_map]
  simp only [List.mem_range, eq_comm]

theorem tableSpells_iff (cfg : Cfg) :
    tableSpells cfg = true ↔
      ∀ k j, jumpEntry cfg k = some j →
        tableByte cfg (slotAddr cfg k false) = lowByte j ∧
          tableByte cfg (slotAddr cfg k true) = highByte j := by
  rw [forall_jumpEntry_iff cfg fun k j => tableByte cfg (slotAddr cfg k false) = lowByte j ∧
    tableByte cfg (slotAddr cfg k true) = highByte j]
  simp [tableSpells, entryValue_eq_iff, tableByte_slotAddr, tableBytes, and_assoc]

theorem tableClear_iff (cfg : Cfg) :
    ((fixedAddrs ++ uartAddrs cfg).all fun a => !inTable cfg a) = true ↔
      ∀ o < 14, cfg.tableBase + BitVec.ofNat 16 o ≠ 0xF000 ∧
        cfg.tableBase + BitVec.ofNat 16 o ≠ 0xF0FF ∧ cfg.tableBase + BitVec.ofNat 16 o < 0xFFFA ∧
        ∀ r < 4, cfg.tableBase + BitVec.ofNat 16 o ≠ cfg.uartBase + BitVec.ofNat 16 r := by
  simp only [all_not_iff, inTable_iff, not_mem_fixed_uart_iff]
  constructor
  · intro h o ho
    exact h _ ⟨o, ho, rfl⟩
  · rintro h a ⟨o, ho, rfl⟩
    exact h o ho

theorem uartClear_iff (cfg : Cfg) :
    ((uartAddrs cfg).all fun a => !fixedAddrs.contains a) = true ↔
      ∀ r < 4, cfg.uartBase + BitVec.ofNat 16 r ≠ 0xF000 ∧
        cfg.uartBase + BitVec.ofNat 16 r ≠ 0xF0FF ∧
          cfg.uartBase + BitVec.ofNat 16 r < 0xFFFA := by
  simp only [List.all_eq_true, Bool.not_eq_true', List.contains_eq_mem, decide_eq_false_iff_not,
    mem_uartAddrs_iff, not_mem_fixedAddrs_iff]
  constructor
  · intro h r hr
    exact h _ ⟨r, hr, rfl⟩
  · rintro h a ⟨r, hr, rfl⟩
    exact h r hr

theorem fieldsTyped_iff (cfg : Cfg) :
    fieldsTyped cfg = true ↔
      1 ≤ cfg.nBanks ∧ cfg.nBanks ≤ 256 ∧ cfg.kstackTop < 2 ^ cfg.spW := by
  simp only [fieldsTyped, Bool.and_eq_true, decide_eq_true_eq, and_assoc]

/-! ### The check as a whole -/

/-- Every step makes the check first (log 24). -/
theorem step_of_not_admitted {s : State} (h : admitted s.cfg = false) :
    step s = .refused .configurationRefused := by
  simp [step, h]

/-- Settles O2: `admitted` is the conjunction of the items of R10, each of which says over all
addresses what its lemma above states. -/
theorem admissionChecksConfiguration : Obligations.AdmissionChecksConfiguration := by
  intro cfg
  constructor
  · simp only [admitted, blocksApart, Bool.and_eq_true]
    rw [vectorsSpell_iff, windowClear_iff, depthAndMask_iff, tableSpells_iff, tableClear_iff,
      uartClear_iff, fieldsTyped_iff]
    simp only [and_assoc]
  · rintro h s rfl
    exact step_of_not_admitted h

end Sys2Proof.Proofs.Admission

/-! PROOFS. What a dispatcher micro-step can do, said once: the whole next state of each row of
30_encoding.md R65, the fault it raises, or why the phase word has no micro-step. -/

namespace Sys2Proof.Proofs.MicroSteps

open Sys2Proof Sys2Proof.Machine

/-- The next state of a micro-step, row by row (42_entry.md R100 to R103, 43_dispatch.md R105 to
R111, 44_handlers.md R115 to R123, 45_restore.md R126 to R129). The handler steps that differ only
in the events they record and the temporaries they set are one case each: `handlerDone` where the
handler exits, `handlerOn` where it goes on. -/
inductive MicroStep (s : State) : State → Prop
  | entSave {f rest} (phase : s.phase = phEntSave) (frames : s.frames = f :: rest) :
    MicroStep s { s with
      frames := { f with a := s.a, x := s.x, y := s.y,
                         sp := if s.cfg.kstack then s.sp else f.sp,
                         ssel := if s.cfg.kstack then s.ssel else f.ssel } :: rest,
      phase := phEntBankRead }
  | entBankRead {f rest v} (phase : s.phase = phEntBankRead) (frames : s.frames = f :: rest)
    (bank : s.bank0 = some v) :
    MicroStep s { s.emit (.rd bank0Addr v) with
      frames := { f with bank := v } :: rest,
      phase := if s.cfg.kstack then phEntKstackSwitch else phEntBankForce }
  | entKstackSwitch (phase : s.phase = phEntKstackSwitch) (kstack : s.cfg.kstack = true) :
    MicroStep s { s with
      sp := if s.ssel = .user then s.cfg.kstackTop else s.sp, ssel := .kernel,
      phase := phEntBankForce }
  | entBankForce (phase : s.phase = phEntBankForce) :
    MicroStep s { s.emit (.wr bank0Addr 0) with bank0 := some 0, phase := phDspBrkCheck }
  | brkTaken {f rest} (phase : s.phase = phDspBrkCheck) (frames : s.frames = f :: rest)
    (flag : breakFlag s.cfg f = true) :
    MicroStep s { s.emit .brkUnimplemented with brkUnimpl := true, phase := phRstBankWrite }
  | brkClear {f rest} (phase : s.phase = phDspBrkCheck) (frames : s.frames = f :: rest)
    (flag : breakFlag s.cfg f = false) : MicroStep s { s with phase := phDspLatchRead }
  | latchRead {v} (phase : s.phase = phDspLatchRead) (valid : latchValid v = true) :
    MicroStep s { s.emit (.rd latchAddr v) with off := v, phase := phDspTableLo }
  | tableLo {d v a} (phase : s.phase = phDspTableLo) (addr : a = tableLoAddr s.cfg s.off) :
    MicroStep s { (afterRead s (addrTarget s.cfg a) a d).emit (.rd a v) with
      lo := v, phase := phDspTableHi }
  | tableHi {d v a} (phase : s.phase = phDspTableHi) (addr : a = tableHiAddr s.cfg s.off) :
    MicroStep s { (afterRead s (addrTarget s.cfg a) a d).emit (.rd a v) with
      hi := v, phase := phDspJump }
  | jump {rx} (phase : s.phase = phDspJump) :
    MicroStep s { s with
      pc := word16 s.hi s.lo, spins := 0, rx := rx, phase := handlerWord (handlerIndex s.off) 0 }
  | countSector (phase : s.phase = handlerWord 1 0) :
    MicroStep s (handlerExit { s with
      sectorPtr := if s.cfg.sector then s.sectorPtr + 1 else s.sectorPtr })
  | handlerDone {es} (handler : isHandler s.phase = true) (no_reset : Event.reset ∉ es) :
    MicroStep s (handlerExit { s with history := s.history ++ es })
  | handlerOn {es st rx spins} (handler : isHandler s.phase = true) (no_reset : Event.reset ∉ es)
    (event : es ≠ []) :
    MicroStep s { s with
      history := s.history ++ es, rx := rx, spins := spins, phase := handlerWord 5 st }
  | rstBankWrite {f rest} (phase : s.phase = phRstBankWrite) (frames : s.frames = f :: rest) :
    MicroStep s { s.emit (.wr bank0Addr f.bank) with
      bank0 := some f.bank, phase := if s.cfg.kstack then phRstKstackRestore else phRstPop }
  | rstKstackRestore {f rest} (phase : s.phase = phRstKstackRestore) (frames : s.frames = f :: rest)
    (kstack : s.cfg.kstack = true) :
    MicroStep s { s with sp := f.sp, ssel := f.ssel, phase := phRstPop }
  | rstPop {f rest} (phase : s.phase = phRstPop) (frames : s.frames = f :: rest) :
    MicroStep s { s with a := f.a, x := f.x, y := f.y, phase := phRstRti }
  | rstRti {f rest} (phase : s.phase = phRstRti) (frames : s.frames = f :: rest) :
    MicroStep s (returnFromInterrupt s f rest)
  | raised {es c info spins} (no_reset : Event.reset ∉ es) :
    MicroStep s (raise { s with history := s.history ++ es, spins := spins } c info)

/-- Why a phase word has no micro-step here: it is no row, a FAULT row, a row on the top frame with
no frame, or a kernel-stack row without KSTACK (30_encoding.md R66, log 15, 16). -/
def Blocked (s : State) : Prop :=
  isPhaseRow s.phase = false ∨ faultOfWord s.phase ≠ none ∨ s.frames = [] ∨
    (s.cfg.kstack = false ∧ (s.phase = phEntKstackSwitch ∨ s.phase = phRstKstackRestore))

/-- An outcome is one of the next states above, or there is a reason for it to be none. -/
def Answers (s : State) (o : Out) : Prop :=
  match o with
  | .next t => MicroStep s t
  | .fault _ => Blocked s
  | .refused _ => Blocked s

/-! ### The parts micro-steps are made of -/

theorem answers_raise (s : State) (c : Fault) (info : Nat) :
    Answers s (Flow.raised (raise s c info)).toOut := by
  have h := MicroStep.raised (s := s) (es := []) (c := c) (info := info) (spins := s.spins)
    (by simp)
  rwa [List.append_nil] at h

theorem answers_withTop {s : State} {k : Frame → List Frame → Flow}
    (hk : ∀ f rest, s.frames = f :: rest → Answers s (k f rest).toOut) :
    Answers s (withTop s k).toOut := by
  cases hf : s.frames with
  | nil => rw [withTop_nil k hf]; exact .inr (.inr (.inl hf))
  | cons f rest => rw [withTop_cons k hf]; exact hk f rest hf

theorem answers_readThen {s : State} {t : Target} {a : Addr} {d : Byte} {k : Byte → State → Flow}
    (hk : ∀ v, readValue s t a d = some v →
      Answers s (k v ((afterRead s t a d).emit (.rd a v))).toOut) :
    Answers s (readThen s t a d k).toOut := by
  rcases readThen_cases s t a d k with ⟨_, _, h⟩ | ⟨v, hv, h⟩
  · rw [h]; exact answers_raise s _ _
  · rw [h]; exact hk v hv

/-- A handler's poll goes on in the handler, ready or not, or hits the spin limit (40_serialio.md
R87, 44_handlers.md R119, R121). -/
theorem answers_poll {s : State} (hc : admitted s.cfg = true) (hh : isHandler s.phase = true)
    (v : Byte) (ready : Byte → Bool) (stReady stWait : BitVec 2) :
    Answers s (pollStatus s v ready (fun t => { t with spins := 0, phase := handlerWord 5 stReady })
      (fun t => { t with phase := handlerWord 5 stWait })).toOut := by
  rw [pollStatus_eq hc]
  split
  · exact .handlerOn hh (by simp) (by simp)
  · rcases spinCheck_cases (s.emit (.rd (uartStatus s.cfg) v)) v with
      ⟨_, h⟩ | ⟨_, _, _, h⟩ | ⟨_, _, _, h⟩ <;> rw [h]
    · exact .handlerOn hh (by simp) (by simp)
    · exact .handlerOn hh (by simp) (by simp)
    · exact .raised (by simp)

theorem answers_handlerExit {s : State} (hh : isHandler s.phase = true) :
    Answers s (.next (handlerExit s)) := by
  have h := MicroStep.handlerDone (s := s) (es := []) hh (by simp)
  rwa [List.append_nil] at h

/-! ### The rows, one by one -/

theorem answers_entSave {s : State} (hp : s.phase = phEntSave) : Answers s (execEntSave s) :=
  answers_withTop fun _ _ hf => .entSave hp hf

theorem answers_entBankRead {s : State} (hp : s.phase = phEntBankRead) :
    Answers s (execEntBankRead s) :=
  answers_withTop fun _ _ hf => answers_readThen fun _ hv => .entBankRead hp hf hv

theorem answers_entKstackSwitch {s : State} (hp : s.phase = phEntKstackSwitch) :
    Answers s (execEntKstackSwitch s) := by
  unfold execEntKstackSwitch
  split
  · exact .entKstackSwitch hp ‹_›
  · rename_i hk
    exact .inr (.inr (.inr ⟨Bool.not_eq_true _ ▸ hk, .inl hp⟩))

theorem answers_entBankForce {s : State} (hp : s.phase = phEntBankForce) :
    Answers s (execEntBankForce s) := .entBankForce hp

theorem answers_dspBrkCheck {s : State} (hp : s.phase = phDspBrkCheck) :
    Answers s (execDspBrkCheck s) := by
  refine answers_withTop fun f rest hf => ?_
  cases hb : breakFlag s.cfg f
  · exact .brkClear hp hf hb
  · exact .brkTaken hp hf hb

theorem answers_dspLatchRead {s : State} (hp : s.phase = phDspLatchRead) (latch : Byte) :
    Answers s (execDspLatchRead latch s) := by
  refine answers_readThen fun v _ => ?_
  cases hv : latchValid v
  · exact .raised (spins := s.spins) (by simp)
  · exact .latchRead hp hv

theorem answers_dspTableLo {s : State} (hp : s.phase = phDspTableLo) :
    Answers s (execDspTableLo s) :=
  answers_readThen fun _ _ => .tableLo hp rfl

theorem answers_dspTableHi {s : State} (hp : s.phase = phDspTableHi) :
    Answers s (execDspTableHi s) :=
  answers_readThen fun _ _ => .tableHi hp rfl

theorem answers_handler51 {s : State} (hc : admitted s.cfg = true)
    (hh : isHandler s.phase = true) (data : Byte) :
    Answers s (execHandler51Ser0RxRead data s) := by
  refine answers_readThen fun v _ => ?_
  rw [addrTarget_uartData s.cfg hc, afterRead_uart]
  exact .handlerOn hh (by simp) (by simp)

theorem answers_handler53 {s : State} (hc : admitted s.cfg = true)
    (hh : isHandler s.phase = true) : Answers s (execHandler53Ser0TxWrite s) := by
  unfold execHandler53Ser0TxWrite memWrite
  rw [addrTarget_uartData s.cfg hc]
  exact .handlerDone hh (by simp)

theorem answers_rstBankWrite {s : State} (hp : s.phase = phRstBankWrite) :
    Answers s (execRstBankWrite s) :=
  answers_withTop fun _ _ hf => .rstBankWrite hp hf

theorem answers_rstKstackRestore {s : State} (hp : s.phase = phRstKstackRestore) :
    Answers s (execRstKstackRestore s) := by
  unfold execRstKstackRestore
  split
  · exact answers_withTop fun _ _ hf => .rstKstackRestore hp hf ‹_›
  · rename_i hk
    exact .inr (.inr (.inr ⟨Bool.not_eq_true _ ▸ hk, .inr hp⟩))

theorem answers_rstPop {s : State} (hp : s.phase = phRstPop) : Answers s (execRstPop s) :=
  answers_withTop fun _ _ hf => .rstPop hp hf

theorem answers_rstRti {s : State} (hp : s.phase = phRstRti) : Answers s (execRstRti s) :=
  answers_withTop fun _ _ hf => .rstRti hp hf

/-- A phase word rejected with some values is no row of R66, whatever values come with it. -/
theorem isPhaseRow_of_error {w : PhaseWord} {v : StepVals} {e : DecodeError}
    (h : decodePhase w v = .error e) : isPhaseRow w = false := by
  unfold decodePhase at h
  split at h
  case h_28 => simp [isPhaseRow, decodePhase]
  all_goals cases h

/-- The micro-step of every phase word outside IDLE is one of the rows (30_encoding.md R65, R66). -/
theorem answers_dispatchStep {s : State} (hc : admitted s.cfg = true) (hi : s.phase ≠ phIdle)
    (d : Draws) : Answers s (dispatchStep d s) := by
  unfold dispatchStep
  cases hd : decodePhase s.phase (stepVals d s) with
  | error e => exact .inl (isPhaseRow_of_error hd)
  | ok i =>
    unfold decodePhase at hd
    split at hd <;> cases hd
    next h => exact absurd h hi
    next h => exact answers_entSave h
    next h => exact answers_entBankRead h
    next h => exact answers_entKstackSwitch h
    next h => exact answers_entBankForce h
    next h => exact answers_dspBrkCheck h
    next h => exact answers_dspLatchRead h _
    next h => exact answers_dspTableLo h
    next h => exact answers_dspTableHi h
    next h => exact .jump h
    next h => exact .countSector h
    next h => exact answers_handlerExit (by rw [h]; rfl)
    next h => exact answers_handlerExit (by rw [h]; rfl)
    next h => exact answers_handlerExit (by rw [h]; rfl)
    next h => exact answers_poll hc (by rw [h]; rfl) _ _ _ _
    next h => exact answers_handler51 hc (by rw [h]; rfl) _
    next h => exact answers_poll hc (by rw [h]; rfl) _ _ _ _
    next h => exact answers_handler53 hc (by rw [h]; rfl)
    next h => exact answers_handlerExit (by rw [h]; rfl)
    next h => exact answers_rstBankWrite h
    next h => exact answers_rstKstackRestore h
    next h => exact answers_rstPop h
    next h => exact answers_rstRti h
    all_goals exact .inr (.inl (by simp [*, faultOfWord, faultWord]))

/-! ### What every micro-step keeps -/

/-- What every micro-step leaves as it is, or only adds to. -/
structure MicroKeeps (s t : State) : Prop where
  cfg : t.cfg = s.cfg
  imask : t.imask = s.imask
  pending : t.pending = s.pending
  history : ∃ es, t.history = s.history ++ es ∧ Event.reset ∉ es
  mem_wf : Memory.wf s.mem = true → Memory.wf t.mem = true

theorem returnFromInterrupt_eq (s : State) (f : Frame) (rest : List Frame) :
    ∃ pc rx spins w, returnFromInterrupt s f rest =
      { s with p := f.p, frames := rest, pc := pc, rx := rx, spins := spins, phase := w } := by
  unfold returnFromInterrupt
  split
  · exact ⟨_, s.rx, s.spins, _, rfl⟩
  · exact ⟨s.pc, _, _, _, rfl⟩

theorem MicroKeeps.of_mem_eq {s t : State} {es : List Event} (cfg : t.cfg = s.cfg)
    (imask : t.imask = s.imask) (pending : t.pending = s.pending)
    (history : t.history = s.history ++ es) (no_reset : Event.reset ∉ es) (mem : t.mem = s.mem) :
    MicroKeeps s t :=
  ⟨cfg, imask, pending, ⟨es, history, no_reset⟩, fun h => mem ▸ h⟩

theorem MicroKeeps.of_tableRead {s t : State} {tg : Target} {a : Addr} {d v : Byte}
    (cfg : t.cfg = s.cfg) (imask : t.imask = s.imask) (pending : t.pending = s.pending)
    (history : t.history = s.history ++ [.rd a v]) (mem : t.mem = (afterRead s tg a d).mem) :
    MicroKeeps s t :=
  ⟨cfg, imask, pending, ⟨_, history, by simp⟩, fun h => mem ▸ afterRead_keeps_wf s tg a d h⟩

/-- The dispatcher writes neither the mask, nor the configuration, nor the program's pending steps,
and only adds to the history. -/
theorem MicroStep.keeps {s t : State} (h : MicroStep s t) : MicroKeeps s t := by
  have silent : ∀ u : State, u.cfg = s.cfg → u.imask = s.imask → u.pending = s.pending →
      u.history = s.history → u.mem = s.mem → MicroKeeps s u := fun u h1 h2 h3 h4 h5 =>
    .of_mem_eq (es := []) h1 h2 h3 (by rw [h4, List.append_nil]) (by simp) h5
  cases h with
  | entSave | entKstackSwitch | brkClear | jump | countSector | rstKstackRestore | rstPop =>
    exact silent _ rfl rfl rfl rfl rfl
  | entBankRead | entBankForce | brkTaken | latchRead | rstBankWrite =>
    exact .of_mem_eq rfl rfl rfl rfl (by simp) rfl
  | @tableLo _ v | @tableHi _ v =>
    exact .of_tableRead (v := v) (by simp) (by simp) (by simp) (by simp) rfl
  | handlerDone _ no_reset => exact .of_mem_eq rfl rfl rfl rfl no_reset rfl
  | handlerOn _ no_reset => exact .of_mem_eq rfl rfl rfl rfl no_reset rfl
  | @rstRti f rest =>
    obtain ⟨pc, rx, spins, w, h⟩ := returnFromInterrupt_eq s f rest
    rw [h]
    exact silent _ rfl rfl rfl rfl rfl
  | raised no_reset =>
    exact .of_mem_eq rfl rfl rfl (List.append_assoc _ _ _) (by simp [no_reset]) rfl

end Sys2Proof.Proofs.MicroSteps

/-! PROOFS. What one step of the machine can do, said once: the line decoded, its event's effect on
the block, and which fields no event but the program's and reset writes. -/

namespace Sys2Proof.Proofs.Effects

open Sys2Proof Sys2Proof.Machine Sys2Proof.Proofs.MicroSteps

/-! ### Lines -/

/-- The operations a script line can stand for: the six events and the four names of
30_encoding.md R67, R79. -/
inductive LineOp : Instr → Prop
  | prog (ops) : LineOp (.evProg ops)
  | reset (d) : LineOp (.evReset d)
  | irq : LineOp .evIrq
  | swi : LineOp .evSwi
  | nmi : LineOp .evNmi
  | step (mode d) : LineOp (.evStep mode d)
  | withBank0 (action) : LineOp (.pseudoWithBank0 action)
  | activation (d) : LineOp (.pseudoActivation d)
  | cli : LineOp .pseudoCli
  | sei : LineOp .pseudoSei

theorem lineOp_of_decodeLine {l : Line} {i : Instr} (h : decodeLine l = .ok i) : LineOp i := by
  cases l with
  | event code p =>
    simp only [decodeLine, decodeEvent] at h
    split at h <;> cases h <;> constructor
  | pseudo name p =>
    cases name <;> (simp only [decodeLine, decodePseudo] at h; cases h; constructor)

/-- A stopped machine answers every line with its fault (10_state.md R35). -/
theorem exec_of_stopped {s : State} {c : Fault} {i : Instr} (hi : LineOp i)
    (h : stopped s = some c) : exec i s = .fault c := by
  cases hi <;>
    simp [exec, execEvProg, execEvReset, execEvIrq, execEvSwi, execEvNmi, execEvStep,
      execPseudoWithBank0, execPseudoActivation, execPseudoCli, execPseudoSei, programStep, h]

/-- Settles O36: `exec_of_stopped`, for the fault on record. -/
theorem faultedStateHasNoStep : Obligations.FaultedStateHasNoStep := by
  refine ⟨fun s c l i hf hl => ?_, fun s => ⟨rfl, rfl, rfl, rfl⟩⟩
  exact exec_of_stopped (lineOp_of_decodeLine hl) (by simp [stopped, hf])

/-! ### States that differ only in the lines -/

/-- `t` is `s` but for the environment's upcoming lines and their count. -/
def SameBlock (s t : State) : Prop :=
  ∃ script count, t = { s with script := script, drawCount := count }

theorem SameBlock.refl (s : State) : SameBlock s s := ⟨s.script, s.drawCount, rfl⟩

theorem sameBlock_nextLine (s : State) : SameBlock s (nextLine s).2 := by
  unfold nextLine
  split
  · exact ⟨s.script, s.drawCount + 1, rfl⟩
  · exact ⟨_, s.drawCount + 1, rfl⟩

theorem sameBlock_requeue (mode : StepMode) (d : Draws) (w : PhaseWord) (s : State) :
    SameBlock s (requeue mode d w s) := by
  unfold requeue
  split
  · exact .refl s
  · exact ⟨_, s.drawCount, rfl⟩

/-- `t` is `s` but for the history, which no step reads, and the lines. -/
def SameMachine (s t : State) : Prop :=
  ∃ history script count, t = { s with history := history, script := script, drawCount := count }

theorem SameBlock.sameMachine {s t : State} (h : SameBlock s t) : SameMachine s t := by
  obtain ⟨script, count, rfl⟩ := h
  exact ⟨s.history, script, count, rfl⟩

/-- NMI only records its events (60_exceptions.md R137). -/
theorem sameMachine_nmi (s : State) : SameMachine s (fetchVector (s.emit .nmi) nmiVector).2 :=
  ⟨_, s.script, s.drawCount, rfl⟩

/-! ### Program steps -/

/-- How a program step of IDLE leaves the state: what R16 says it never writes is kept, the steps of
a `withBank0` apart, and the phase changes only into FAULT. -/
structure ProgramStep (s t : State) : Prop where
  keeps : ProgramKeeps s { t with pending := s.pending }
  after : t.phase = s.phase ∧ t.fault = s.fault ∨ ∃ c, t.fault = some c ∧ t.phase = faultWord c

theorem ProgramStep.of_keeps {s t : State} (h : ProgramKeeps s t)
    (after : t.phase = s.phase ∧ t.fault = s.fault ∨
      ∃ c, t.fault = some c ∧ t.phase = faultWord c) :
    ProgramStep s t :=
  ⟨⟨h.cfg, h.ssel, h.frames, h.sectorPtr, h.brkUnimpl, rfl, h.script, h.drawCount, h.off,
    h.history, h.mem_wf, h.sp_lt⟩, after⟩

theorem programStep_of_flowKeeps {s t : State} {f : Flow} (h : FlowKeeps s f)
    (ht : f.toOut = .next t) : ProgramStep s t := by
  rcases (toOut_eq_next_iff f t).mp ht with rfl | rfl
  · exact .of_keeps h.1 (.inl h.2)
  · exact .of_keeps h.1 (.inr h.2)

theorem programStep_of_seqStep {seq : ProgSeq} {s t : State}
    (ht : (seqStep seq s).toOut = .next t) : ProgramStep s t := by
  have h := keeps_seqStep seq s
  rcases (toOut_eq_next_iff _ t).mp ht with hf | hf <;> rw [hf] at h
  · exact ⟨h.1, .inl h.2⟩
  · exact .of_keeps h.1 (.inr h.2)

/-- Setting the mask touches nothing that R16 bars the program from. -/
theorem keeps_mask (s : State) (b : Bool) : FlowKeeps s (.go { s with imask := b }) :=
  ⟨⟨rfl, rfl, rfl, rfl, rfl, rfl, rfl, rfl, rfl, ⟨[], by simp⟩, id, id⟩, rfl, rfl⟩

/-! ### Effects -/

/-- Where an interrupt may be taken, with its return position and break flag (42_entry.md R97 to
R99). -/
def AcceptanceAt (s : State) (ret : Position) (brk : Bool) : Prop :=
  (s.phase = phIdle ∧ ret = .prog s.pc) ∨
    (isHandler s.phase = true ∧ s.cfg.nestEnable = true ∧ s.imask = false ∧ brk = false ∧
      ret = .hnd (phaseHandler s.phase) (phaseStep s.phase) s.rx s.spins)

/-- What one event can do to the block in a state that has not stopped (10_state.md R35). -/
inductive Effect (s : State) : State → Prop
  | nothing : Effect s s
  | program {t} (idle : s.phase = phIdle) (step : ProgramStep s t) : Effect s t
  | reset (d) : Effect s (resetState d s)
  | accept {e ret brk} (no_reset : Event.reset ≠ e) (point : AcceptanceAt s ret brk)
    (room : s.frames.length ≠ s.cfg.maxDepth) : Effect s (acceptInterrupt s e ret brk)
  | overflow (info) : Effect s (raise s .stackOverflow info)
  | nmi : Effect s (fetchVector (s.emit .nmi) nmiVector).2
  | micro {t} (away : s.phase ≠ phIdle) (step : MicroStep s t) : Effect s t

/-- `t` comes from `s` by one effect, the lines apart. -/
def Steps (s t : State) : Prop := ∃ s' t', SameBlock s s' ∧ Effect s' t' ∧ SameBlock t' t

theorem Steps.of_effect {s t : State} (h : Effect s t) : Steps s t :=
  ⟨s, t, .refl s, h, .refl t⟩

theorem steps_programStep {again : List Line} {own : State → Flow} {s t : State}
    (hown : ∀ u, (own s).toOut = .next u → ProgramStep s u)
    (ht : programStep again own s = .next t) : Steps s t := by
  unfold programStep at ht
  split at ht
  · cases ht
  · split at ht
    · rename_i hi
      split at ht
      · exact .of_effect (.program hi (hown t ht))
      · exact ⟨{ s with script := again ++ s.script }, t, ⟨_, s.drawCount, rfl⟩,
          .program hi (programStep_of_seqStep ht), .refl t⟩
    · cases ht
      exact .of_effect .nothing

theorem effect_acceptOrOverflow {s t : State} {e : Event} {ret : Position} {brk : Bool}
    (he : Event.reset ≠ e) (hp : AcceptanceAt s ret brk)
    (ht : (acceptOrOverflow s e ret brk).toOut = .next t) : Effect s t := by
  rcases acceptOrOverflow_cases s e ret brk with ⟨_, h⟩ | ⟨hroom, h⟩ <;> rw [h] at ht <;> cases ht
  · exact .overflow _
  · exact .accept he hp hroom

/-- An enabled IRQ is at one of the acceptance points of 42_entry.md R97. -/
theorem acceptanceAt_of_irqEnabled {s : State} (h : irqEnabled s = true) :
    AcceptanceAt s (returnPosition s) false := by
  simp only [irqEnabled, Bool.and_eq_true, Bool.or_eq_true, decide_eq_true_eq,
    Bool.not_eq_true'] at h
  obtain ⟨hm, hp⟩ := h
  by_cases hi : s.phase = phIdle
  · exact .inl ⟨hi, by simp [returnPosition, hi]⟩
  · obtain ⟨hh, hn⟩ := hp.resolve_left hi
    exact .inr ⟨hh, hn, hm, rfl, by simp [returnPosition, hi]⟩

theorem effect_irqFlow {s t : State} (h : irqEnabled s = true)
    (ht : (irqFlow s).toOut = .next t) : Effect s t :=
  effect_acceptOrOverflow (by simp) (acceptanceAt_of_irqEnabled h) ht

theorem steps_evStep {s t : State} {mode : StepMode} {d : Draws} (hc : admitted s.cfg = true)
    (ht : execEvStep mode d s = .next t) : Steps s t := by
  have micro : ∀ u, s.phase ≠ phIdle → dispatchStep d s = .next u → Effect s u := fun u hi hu => by
    have h := answers_dispatchStep hc hi d
    rw [hu] at h
    exact .micro hi h
  unfold execEvStep at ht
  split at ht
  · cases ht
  · split at ht
    · cases ht
      exact .of_effect .nothing
    · rename_i hi
      cases mode with
      | once => exact .of_effect (micro t hi ht)
      | run =>
        simp only at ht
        split at ht
        · cases ht
          exact .of_effect .nothing
        · split at ht
          · rename_i u hu
            cases ht
            exact ⟨s, u, .refl s, micro u hi hu, sameBlock_requeue _ _ _ _⟩
          · rename_i hn
            exact absurd ht (hn t)
      | activation =>
        simp only at ht
        split at ht
        · rename_i u hu
          cases ht
          exact ⟨s, u, .refl s, micro u hi hu, sameBlock_requeue _ _ _ _⟩
        · rename_i hn
          exact absurd ht (hn t)

theorem steps_activation {s t : State} {d : Draws}
    (ht : execPseudoActivation d s = .next t) : Steps s t := by
  unfold execPseudoActivation at ht
  split at ht
  · cases ht
  · split at ht
    · rename_i he
      split at ht
      · rename_i u hu
        cases ht
        exact ⟨s, u, .refl s, effect_irqFlow he (by rw [hu]; rfl), ⟨_, u.drawCount, rfl⟩⟩
      · exact .of_effect (effect_irqFlow he ht)
    · cases ht
      exact .of_effect .nothing

/-- Every line's operation has one of the effects above. -/
theorem steps_exec {s t : State} {i : Instr} (hc : admitted s.cfg = true) (hi : LineOp i)
    (hs : stopped s = none) (ht : exec i s = .next t) : Steps s t := by
  cases hi with
  | prog ops => exact steps_programStep (fun u => programStep_of_flowKeeps (keeps_opsStep ops s)) ht
  | reset d =>
    simp only [exec, execEvReset, hs] at ht
    cases ht
    exact .of_effect (.reset d)
  | irq =>
    simp only [exec, execEvIrq, hs] at ht
    split at ht
    · exact .of_effect (effect_irqFlow ‹_› ht)
    · cases ht
      exact .of_effect .nothing
  | swi =>
    simp only [exec, execEvSwi, hs] at ht
    split at ht
    · exact .of_effect (effect_acceptOrOverflow (by simp) (.inl ⟨‹_›, rfl⟩) ht)
    · cases ht
      exact .of_effect .nothing
  | nmi =>
    simp only [exec, execEvNmi, hs] at ht
    cases ht
    exact .of_effect .nmi
  | step mode d => exact steps_evStep hc ht
  | withBank0 action => exact steps_programStep (fun u => programStep_of_seqStep) ht
  | activation d => exact steps_activation ht
  | cli =>
    exact steps_programStep (own := fun u => .go { u with imask := false })
      (fun _ => programStep_of_flowKeeps (keeps_mask s false)) ht
  | sei =>
    exact steps_programStep (own := fun u => .go { u with imask := true })
      (fun _ => programStep_of_flowKeeps (keeps_mask s true)) ht

/-- What one step of the machine can do: it is taken in an admitted configuration with no fault, and
has one of the effects above. -/
theorem step_cases {s t : State} (h : step s = .next t) :
    admitted s.cfg = true ∧ Running s ∧ Steps s t := by
  unfold step at h
  split at h
  · rename_i hc
    split at h
    · rename_i i hd
      obtain ⟨script, count, hs⟩ := sameBlock_nextLine s
      rw [hs] at h
      have hop := lineOp_of_decodeLine hd
      have hrun : stopped s = none := by
        cases hst : stopped s with
        | none => rfl
        | some c =>
          have hf := exec_of_stopped (s := { s with script := script, drawCount := count }) hop hst
          rw [hf] at h
          cases h
      obtain ⟨s', t', ⟨script', count', rfl⟩, he, ht⟩ :=
        steps_exec (s := { s with script := script, drawCount := count }) hc hop hrun h
      exact ⟨hc, (stopped_eq_none_iff s).mp hrun, _, t', ⟨script', count', rfl⟩, he, ht⟩
    · cases h
  · cases h

end Sys2Proof.Proofs.Effects

/-! PROOFS. The machine invariant of 10_state.md R38: it holds at reset, and every effect of a step
keeps it. -/

namespace Sys2Proof.Proofs.Invariant

open Sys2Proof Sys2Proof.Machine Sys2Proof.Proofs.MicroSteps Sys2Proof.Proofs.Effects

/-! ### Phase words -/

/-- What the invariant's phase predicates say of a handler word: everything saved, page 0, the
kernel stack active (10_state.md R38). -/
structure HandlerPhase (w : PhaseWord) : Prop where
  row : isPhaseRow w = true
  no_fault : faultOfWord w = none
  not_idle : w ≠ phIdle
  saved : pastBankRead w = true
  kernel : kernelPhase w = true
  forced : bankForced w = true
  source : sourcePhase w = true
  no_off : offPhase w ≠ true
  word : handlerWord (phaseHandler w) (phaseStep w) = w

theorem handlerPhase_of_isHandler {w : PhaseWord} (h : isHandler w = true) : HandlerPhase w := by
  simp only [isHandler, List.contains_iff_mem, List.mem_cons, List.not_mem_nil, or_false] at h
  rcases h with rfl | rfl | rfl | rfl | rfl | rfl | rfl | rfl | rfl <;>
    exact ⟨rfl, rfl, by decide, rfl, rfl, rfl, rfl, by decide, rfl⟩

theorem isHandler_handlerWord_five (st : BitVec 2) : isHandler (handlerWord 5 st) = true := by
  revert st; decide

/-- A checked latch value is one of the six of 30_encoding.md R68. -/
theorem mem_sourceLatches_of_latchValid {v : Byte} (h : latchValid v = true) :
    v ∈ sourceLatches := by
  revert v; decide

theorem isHandler_jump {off : Byte} (h : latchValid off = true) :
    isHandler (handlerWord (handlerIndex off) 0) = true := by
  have h' := mem_sourceLatches_of_latchValid h
  simp only [sourceLatches, List.mem_cons, List.not_mem_nil, or_false] at h'
  rcases h' with rfl | rfl | rfl | rfl | rfl | rfl <;> rfl

theorem pastSave_of_pastBankRead {w : PhaseWord} (h : pastBankRead w = true) :
    pastSave w = true := by
  simp only [pastBankRead, Bool.and_eq_true] at h
  exact h.1

/-- The break flag shows in the pushed status exactly when the frame has it, the mask having a bit
(30_encoding.md R72). -/
theorem breakFlag_eq {cfg : Cfg} (hc : admitted cfg = true) (f : Frame) :
    breakFlag cfg f = f.brk := by
  have hm : ¬cfg.brkMask = 0#8 := brkMask_ne_zero cfg hc
  have cleared : f.p &&& ~~~cfg.brkMask &&& cfg.brkMask = 0 := by
    rw [BitVec.and_assoc]; simp
  have marked : (f.p &&& ~~~cfg.brkMask ||| cfg.brkMask) &&& cfg.brkMask = cfg.brkMask := by
    ext i hi; simpa using fun h => .inr h
  cases hb : f.brk <;> simp [breakFlag, pushedStatus, hb, cleared, marked, hm]

/-! ### Frames -/

/-- A frame whose activation is past ENT_BANK_READ and has no break may wait below another. -/
theorem lowerFramesOk_of_top {cfg : Cfg} {w : PhaseWord} {f : Frame} {rest : List Frame}
    (h : FramesOk cfg w (f :: rest)) (hw : pastBankRead w = true) (hs : sourcePhase w = true) :
    LowerFramesOk cfg (f :: rest) := by
  obtain ⟨⟨hbrk, htop⟩, hlow⟩ := h
  have hsave := pastSave_of_pastBankRead hw
  cases rest with
  | nil =>
    rw [if_pos rfl] at htop
    exact ⟨htop.1, hbrk hs, fun hk => htop.2 hk hsave⟩
  | cons g rest =>
    rw [if_neg (by simp)] at htop
    obtain ⟨hret, hb, hk, hbank⟩ := htop
    exact ⟨⟨hret, hb, hbank hw, fun h => hk h hsave⟩, hlow⟩

/-- The frames below the top are again a frame stack, of a state in a handler (45_restore.md R129).
-/
theorem framesOk_of_lower {cfg : Cfg} {w : PhaseWord} {fs : List Frame}
    (h : LowerFramesOk cfg fs) : FramesOk cfg w fs := by
  match fs, h with
  | [], _ => trivial
  | [f], ⟨hret, hb, hk⟩ => exact ⟨⟨fun _ => hb, by simpa using ⟨hret, fun h _ => hk h⟩⟩, trivial⟩
  | f :: g :: rest, ⟨⟨hret, hb, hbank, hk⟩, hlow⟩ =>
    exact ⟨⟨fun _ => hb, by simpa using ⟨hret, hb, fun h _ => hk h, fun _ => hbank⟩⟩, hlow⟩

/-- A fully saved stack stays so in the later phases of the top frame's activation. -/
theorem framesOk_of_saved {cfg : Cfg} {w w' : PhaseWord} {f : Frame} {rest : List Frame}
    (h : FramesOk cfg w (f :: rest)) (hw : pastBankRead w = true)
    (hs : sourcePhase w' = true → f.brk = false) : FramesOk cfg w' (f :: rest) := by
  obtain ⟨⟨_, htop⟩, hlow⟩ := h
  have hsave := pastSave_of_pastBankRead hw
  refine ⟨⟨hs, ?_⟩, hlow⟩
  by_cases hr : rest = []
  · rw [if_pos hr] at htop ⊢
    exact ⟨htop.1, fun hk _ => htop.2 hk hsave⟩
  · rw [if_neg hr] at htop ⊢
    obtain ⟨hret, hb, hk, hbank⟩ := htop
    exact ⟨hret, hb, fun h _ => hk h hsave, fun _ => hbank hw⟩

/-! ### Steps inside an activation -/

/-- `Live` in a phase `w` of an activation, item by item of 10_state.md R38. -/
theorem live_of_active {t : State} {f : Frame} {rest : List Frame} {w : PhaseWord}
    (phase : t.phase = w) (frames : t.frames = f :: rest)
    (row : isPhaseRow w = true ∧ faultOfWord w = none ∧ w ≠ phIdle)
    (frames_ok : FramesOk t.cfg w (f :: rest))
    (stack : t.cfg.kstack = true →
      t.ssel = if decide (2 ≤ (f :: rest).length) || kernelPhase w then .kernel else .user)
    (bank : bankForced w = true ∨ 2 ≤ (f :: rest).length → t.bank0 = some 0)
    (depth : (f :: rest).length ≤ t.cfg.maxDepth)
    (kstack : t.cfg.kstack = false → w ≠ phEntKstackSwitch ∧ w ≠ phRstKstackRestore)
    (off : offPhase w = true → latchValid t.off = true) : Live t := by
  obtain ⟨hrow, hfault, hidle⟩ := row
  subst phase
  rw [← frames] at frames_ok stack bank depth
  exact ⟨⟨hrow, hfault⟩, by simp [frames, hidle], frames_ok, stack, bank, depth, kstack, off⟩

/-- `Live` at IDLE: no frame and the user stack (10_state.md R38 (a), (c)). -/
theorem live_of_idle {t : State} (phase : t.phase = phIdle) (frames : t.frames = [])
    (stack : t.cfg.kstack = true → t.ssel = .user) : Live t where
  phase_row := by rw [phase]; decide
  idle_iff := by simp [phase, frames]
  frames_ok := by rw [frames]; trivial
  stack_ok := by rw [phase, frames]; exact stack
  bank_ok := fun h => by rw [phase, frames] at h; exact absurd h (by decide)
  depth_le := by simp [frames]
  kstack_phases := fun _ => by rw [phase]; decide
  off_ok := fun h => by rw [phase] at h; exact absurd h (by decide)

/-- A step that leaves the frames as they are, all saved, to a phase `w` of the same activation:
what is left to show is the stack, the selector and `off`. -/
theorem live_forward {s t : State} {f : Frame} {rest : List Frame} {w : PhaseWord} (hl : Live s)
    (frames : s.frames = f :: rest) (saved : pastBankRead s.phase = true)
    (row : isPhaseRow w = true ∧ faultOfWord w = none ∧ w ≠ phIdle)
    (cfg' : t.cfg = s.cfg) (frames' : t.frames = s.frames) (phase' : t.phase = w)
    (source : sourcePhase w = true → f.brk = false)
    (stack : s.cfg.kstack = true →
      t.ssel = if decide (2 ≤ s.frames.length) || kernelPhase w then .kernel else .user)
    (bank : bankForced w = true ∨ 2 ≤ s.frames.length → t.bank0 = some 0)
    (kstack : s.cfg.kstack = false → w ≠ phEntKstackSwitch ∧ w ≠ phRstKstackRestore)
    (off : offPhase w = true → latchValid t.off = true) : Live t := by
  have hf := hl.frames_ok
  have hd := hl.depth_le
  rw [← cfg'] at hf hd stack kstack
  rw [frames] at hf hd stack bank
  exact live_of_active phase' (frames'.trans frames) row (framesOk_of_saved hf saved source) stack
    bank hd kstack off

/-- A phase word that may follow `w` with stack and selector as they are. -/
def Onward (w w' : PhaseWord) : Prop :=
  pastBankRead w = true ∧ (isPhaseRow w' = true ∧ faultOfWord w' = none ∧ w' ≠ phIdle) ∧
    kernelPhase w' = kernelPhase w ∧ (bankForced w' = true → bankForced w = true) ∧
    w' ≠ phEntKstackSwitch ∧ w' ≠ phRstKstackRestore

/-- A step to a later phase of the same activation that touches neither frames, stack nor selector.
-/
theorem live_onward {s t : State} {f : Frame} {rest : List Frame} {w : PhaseWord} (hl : Live s)
    (frames : s.frames = f :: rest) (next : Onward s.phase w)
    (cfg' : t.cfg = s.cfg) (frames' : t.frames = s.frames) (phase' : t.phase = w)
    (ssel' : t.ssel = s.ssel) (bank0' : t.bank0 = s.bank0)
    (source : sourcePhase w = true → f.brk = false)
    (off : offPhase w = true → latchValid t.off = true) : Live t := by
  obtain ⟨saved, row, kernel, forced, ksw, krs⟩ := next
  refine live_forward hl frames saved row cfg' frames' phase' source ?_ ?_ (fun _ => ⟨ksw, krs⟩) off
  · rw [ssel', kernel]
    exact hl.stack_ok
  · rw [bank0']
    exact fun h => hl.bank_ok (h.imp_left forced)

theorem onward_exit {w : PhaseWord} (h : HandlerPhase w) : Onward w phRstBankWrite :=
  ⟨h.saved, by decide, h.kernel.symm, fun _ => h.forced, by decide⟩

theorem onward_handler {w w' : PhaseWord} (saved : pastBankRead w = true)
    (kernel : kernelPhase w = true) (forced : bankForced w = true) (h : HandlerPhase w') :
    Onward w w' := by
  refine ⟨saved, ⟨h.row, h.no_fault, h.not_idle⟩, h.kernel.trans kernel.symm,
    fun _ => forced, ?_, ?_⟩
  · rintro rfl
    exact absurd h.forced (by decide)
  · rintro rfl
    exact absurd h.forced (by decide)

/-- R38 (a) read forwards: outside IDLE there is a top frame. -/
theorem exists_top {s : State} (hl : Live s) (h : s.phase ≠ phIdle) :
    ∃ f rest, s.frames = f :: rest :=
  List.exists_cons_of_ne_nil fun hn => h (hl.idle_iff.mpr hn)

theorem brk_of_source {s : State} {f : Frame} {rest : List Frame} (hl : Live s)
    (frames : s.frames = f :: rest) (h : sourcePhase s.phase = true) : f.brk = false := by
  have hf := hl.frames_ok
  rw [frames] at hf
  obtain ⟨⟨hbrk, _⟩, _⟩ := hf
  exact hbrk h

/-- With one frame the stack saved at ENT_SAVE is the user stack, with more the kernel stack
(10_state.md R38 (c)). -/
theorem ssel_of_top {s : State} {f : Frame} {rest : List Frame} (hl : Live s)
    (frames : s.frames = f :: rest) (saved : pastSave s.phase = true) (hk : s.cfg.kstack = true) :
    f.ssel = if decide (2 ≤ s.frames.length) then .kernel else .user := by
  have hf := hl.frames_ok
  rw [frames] at hf
  obtain ⟨⟨_, htop⟩, _⟩ := hf
  rw [frames]
  cases rest with
  | nil =>
    rw [if_pos rfl] at htop
    simpa using htop.2 hk saved
  | cons g rest =>
    rw [if_neg (by simp)] at htop
    obtain ⟨_, _, hsel, _⟩ := htop
    simpa using hsel hk saved

/-- A nested activation saved page 0 (10_state.md R38 (d)). -/
theorem bank_of_nested {s : State} {f : Frame} {rest : List Frame} (hl : Live s)
    (frames : s.frames = f :: rest) (saved : pastBankRead s.phase = true)
    (nested : 2 ≤ s.frames.length) : f.bank = 0 := by
  have hf := hl.frames_ok
  rw [frames] at hf nested
  obtain ⟨⟨_, htop⟩, _⟩ := hf
  cases rest with
  | nil => simp at nested
  | cons g rest =>
    rw [if_neg (by simp)] at htop
    obtain ⟨_, _, _, hbank⟩ := htop
    exact hbank saved

/-- ENT_SAVE: the frame takes the stack that is active, the user one with one frame and the kernel
one with more (10_state.md R38 (c)). -/
theorem live_entSave {s : State} {f : Frame} {rest : List Frame} (hl : Live s)
    (phase : s.phase = phEntSave) (frames : s.frames = f :: rest) :
    Live { s with
      frames := { f with a := s.a, x := s.x, y := s.y,
                         sp := if s.cfg.kstack then s.sp else f.sp,
                         ssel := if s.cfg.kstack then s.ssel else f.ssel } :: rest,
      phase := phEntBankRead } := by
  have hf := hl.frames_ok
  have hs := hl.stack_ok
  have hb := hl.bank_ok
  rw [frames, phase] at hf hs
  rw [frames] at hb
  obtain ⟨⟨_, htop⟩, hlow⟩ := hf
  refine live_of_active (w := phEntBankRead) rfl rfl (by decide)
    ⟨⟨fun h => absurd h (by decide), ?_⟩, hlow⟩ hs
    (fun h => hb (h.imp_left fun h => absurd h (by decide))) (frames ▸ hl.depth_le :)
    (fun _ => by decide) (fun h => absurd h (by decide))
  cases rest with
  | nil =>
    rw [if_pos rfl] at htop ⊢
    exact ⟨htop.1, fun hk _ => (if_pos hk).trans (hs hk)⟩
  | cons g rest =>
    rw [if_neg (by simp)] at htop ⊢
    obtain ⟨hret, hbrk, -⟩ := htop
    exact ⟨hret, hbrk, fun hk _ => (if_pos hk).trans ((hs hk).trans (by simp)),
      fun h => absurd h (by decide)⟩

/-- ENT_BANK_READ: in a nested activation the selector read is page 0 (10_state.md R38 (d)). -/
theorem live_entBankRead {s : State} {f : Frame} {rest : List Frame} {v : Byte} (hl : Live s)
    (phase : s.phase = phEntBankRead) (frames : s.frames = f :: rest) (bank : s.bank0 = some v) :
    Live { s.emit (.rd bank0Addr v) with
      frames := { f with bank := v } :: rest,
      phase := if s.cfg.kstack then phEntKstackSwitch else phEntBankForce } := by
  have hf := hl.frames_ok
  have hs := hl.stack_ok
  have hb := hl.bank_ok
  have hd := hl.depth_le
  rw [frames, phase] at hf hs
  rw [frames] at hb hd
  have saved : ∀ w, sourcePhase w = false →
      FramesOk s.cfg w ({ f with bank := v } :: rest) := fun w hw => by
    obtain ⟨⟨_, htop⟩, hlow⟩ := hf
    refine ⟨⟨fun h => absurd h (by simp [hw]), ?_⟩, hlow⟩
    cases rest with
    | nil =>
      rw [if_pos rfl] at htop ⊢
      exact ⟨htop.1, fun hk _ => htop.2 hk (by decide)⟩
    | cons g rest =>
      rw [if_neg (by simp)] at htop ⊢
      have hv : some v = some 0 := bank.symm.trans (hb (.inr (by simp)))
      obtain ⟨hret, hbrk, hsel, -⟩ := htop
      exact ⟨hret, hbrk, fun hk _ => hsel hk (by decide), fun _ => by simpa using hv⟩
  cases hk : s.cfg.kstack with
  | true =>
    exact live_of_active (w := phEntKstackSwitch) rfl rfl (by decide) (saved _ (by decide)) hs
      (fun h => hb (h.imp_left fun h => absurd h (by decide))) hd (fun h => by simp [hk] at h)
      (fun h => absurd h (by decide))
  | false =>
    exact live_of_active (w := phEntBankForce) rfl rfl (by decide) (saved _ (by decide))
      (fun h => by simp [hk] at h)
      (fun h => hb (h.imp_left fun h => absurd h (by decide))) hd (fun _ => by decide)
      (fun h => absurd h (by decide))

/-- RST_BANK_WRITE: a nested activation puts page 0 back (10_state.md R38 (d)). -/
theorem live_rstBankWrite {s : State} {f : Frame} {rest : List Frame} (hl : Live s)
    (phase : s.phase = phRstBankWrite) (frames : s.frames = f :: rest) :
    Live { s.emit (.wr bank0Addr f.bank) with
      bank0 := some f.bank, phase := if s.cfg.kstack then phRstKstackRestore else phRstPop } := by
  have hs := hl.stack_ok
  rw [phase] at hs
  have saved : pastBankRead s.phase = true := by rw [phase]; decide
  have bank : 2 ≤ s.frames.length → some f.bank = some 0 := fun h =>
    congrArg some (bank_of_nested hl frames saved h)
  cases hk : s.cfg.kstack with
  | true =>
    exact live_forward hl (w := phRstKstackRestore) frames saved (by decide) rfl rfl rfl
      (fun h => absurd h (by decide)) hs (fun h => bank (h.resolve_left (by decide)))
      (fun h => by simp [hk] at h) (fun h => absurd h (by decide))
  | false =>
    exact live_forward hl (w := phRstPop) frames saved (by decide) rfl rfl rfl
      (fun h => absurd h (by decide)) (fun h => by simp [hk] at h)
      (fun h => bank (h.resolve_left (by decide))) (fun _ => by decide)
      (fun h => absurd h (by decide))

/-- RST_RTI: the program's state, or the interrupted handler's, whose frame is the one below
(45_restore.md R129). -/
theorem live_rstRti {s : State} {f : Frame} {rest : List Frame} (hl : Live s)
    (phase : s.phase = phRstRti) (frames : s.frames = f :: rest) :
    Live (returnFromInterrupt s f rest) := by
  have hf := hl.frames_ok
  have hs := hl.stack_ok
  have hb := hl.bank_ok
  have hd := hl.depth_le
  rw [frames, phase] at hf hs
  rw [frames] at hb hd
  obtain ⟨⟨_, htop⟩, hlow⟩ := hf
  unfold returnFromInterrupt
  cases hr : f.ret with
  | prog pc =>
    have hrest : rest = [] := by
      by_contra hne
      rw [if_neg hne, hr] at htop
      exact absurd htop.1 (by simp [Position.isHnd])
    subst hrest
    exact live_of_idle rfl rfl hs
  | hnd h st rx spins =>
    cases rest with
    | nil =>
      rw [if_pos rfl, hr] at htop
      exact absurd htop.1 (by simp [Position.isProg])
    | cons g rest =>
      rw [if_neg (by simp), hr] at htop
      obtain ⟨hret, -⟩ := htop
      have hw := handlerPhase_of_isHandler hret
      refine live_of_active (w := handlerWord h st) rfl rfl ⟨hw.row, hw.no_fault, hw.not_idle⟩
        (framesOk_of_lower hlow) (fun hk => ?_) (fun _ => hb (.inr (by simp)))
        ((Nat.le_succ _).trans hd) ?_ (fun ho => absurd ho hw.no_off)
      · simpa [hw.kernel] using hs hk
      · intro _
        constructor
        · intro e
          exact absurd (e ▸ hw.forced) (by decide)
        · intro e
          exact absurd (e ▸ hw.forced) (by decide)

/-- Every micro-step that raises no fault keeps R38 (a) to (e). -/
theorem live_of_microStep {s t : State} (hc : admitted s.cfg = true) (hl : Live s)
    (away : s.phase ≠ phIdle) (h : MicroStep s t) (hf : t.fault = none) : Live t := by
  obtain ⟨f, rest, frames⟩ := exists_top hl away
  have hs := hl.stack_ok
  have hb := hl.bank_ok
  cases h with
  | entSave phase frames => exact live_entSave hl phase frames
  | entBankRead phase frames bank => exact live_entBankRead hl phase frames bank
  | entKstackSwitch phase kstack =>
    rw [phase] at hb
    exact live_forward hl (w := phEntBankForce) frames (by rw [phase]; decide) (by decide) rfl rfl
      rfl
      (fun h => absurd h (by decide)) 
      (fun _ => (if_pos (by rw [Bool.or_eq_true]; exact .inr rfl)).symm)
      (fun h => hb (h.imp_left fun h => absurd h (by decide))) (fun _ => by decide)
      (fun h => absurd h (by decide))
  | entBankForce phase =>
    rw [phase] at hs
    exact live_forward hl (w := phDspBrkCheck) frames (by rw [phase]; decide) (by decide) rfl rfl
      rfl
      (fun h => absurd h (by decide)) hs (fun _ => rfl) (fun _ => by decide)
      (fun h => absurd h (by decide))
  | brkTaken phase =>
    exact live_onward hl (w := phRstBankWrite) frames (by rw [phase]; unfold Onward; decide) rfl rfl
      rfl rfl rfl (fun h => absurd h (by decide)) (fun h => absurd h (by decide))
  | @brkClear g gs phase top flag =>
    exact live_onward hl (w := phDspLatchRead) top (by rw [phase]; unfold Onward; decide) rfl rfl
      rfl rfl rfl (fun _ => (breakFlag_eq hc g).symm.trans flag) (fun h => absurd h (by decide))
  | latchRead phase valid =>
    have source := brk_of_source hl frames (by rw [phase]; decide)
    exact live_onward hl (w := phDspTableLo) frames (by rw [phase]; unfold Onward; decide) rfl rfl
      rfl rfl rfl (fun _ => source) (fun _ => valid)
  | tableLo phase =>
    have source := brk_of_source hl frames (by rw [phase]; decide)
    have off := hl.off_ok (by rw [phase]; decide)
    exact live_onward hl (w := phDspTableHi) frames (by rw [phase]; unfold Onward; decide) (by simp)
      (by simp) rfl (by simp) (by simp) (fun _ => source) (fun _ => by simpa using off)
  | tableHi phase =>
    have source := brk_of_source hl frames (by rw [phase]; decide)
    have off := hl.off_ok (by rw [phase]; decide)
    exact live_onward hl (w := phDspJump) frames (by rw [phase]; unfold Onward; decide) (by simp)
      (by simp) rfl (by simp) (by simp) (fun _ => source) (fun _ => by simpa using off)
  | jump phase =>
    have source := brk_of_source hl frames (by rw [phase]; decide)
    have hw := handlerPhase_of_isHandler (isHandler_jump (hl.off_ok (by rw [phase]; decide)))
    exact live_onward hl frames
      (onward_handler (by rw [phase]; decide) (by rw [phase]; decide) (by rw [phase]; decide) hw)
      rfl rfl rfl rfl rfl (fun _ => source) (fun h => absurd h hw.no_off)
  | countSector phase =>
    have hw := handlerPhase_of_isHandler (w := s.phase) (by rw [phase]; decide)
    exact live_onward hl frames (onward_exit hw) rfl rfl rfl rfl rfl
      (fun h => absurd h (by decide)) (fun h => absurd h (by decide))
  | handlerDone handler =>
    exact live_onward hl frames (onward_exit (handlerPhase_of_isHandler handler)) rfl rfl rfl
      rfl rfl
      (fun h => absurd h (by decide)) (fun h => absurd h (by decide))
  | @handlerOn es st rx spins handler =>
    have hw := handlerPhase_of_isHandler handler
    have hw' := handlerPhase_of_isHandler (isHandler_handlerWord_five st)
    exact live_onward hl frames (onward_handler hw.saved hw.kernel hw.forced hw') rfl rfl rfl
      rfl rfl
      (fun _ => brk_of_source hl frames hw.source) (fun h => absurd h hw'.no_off)
  | rstBankWrite phase top => exact live_rstBankWrite hl phase top
  | rstKstackRestore phase top kstack =>
    have hsel := ssel_of_top hl top (by rw [phase]; decide) kstack
    exact live_forward hl (w := phRstPop) top (by rw [phase]; decide) (by decide) rfl rfl rfl
      (fun h => absurd h (by decide))
      (fun _ => by rw [hsel, show kernelPhase phRstPop = false by decide, Bool.or_false])
      (fun h => hb (h.imp_left fun h => absurd h (by decide))) (fun _ => by decide)
      (fun h => absurd h (by decide))
  | rstPop phase =>
    exact live_onward hl (w := phRstRti) frames (by rw [phase]; unfold Onward; decide) rfl rfl
      rfl rfl rfl (fun h => absurd h (by decide)) (fun h => absurd h (by decide))
  | rstRti phase frames => exact live_rstRti hl phase frames
  | raised => cases hf

/-! ### The invariant -/

/-- `Inv` of a next state, the fault record apart. -/
theorem inv_of {s t : State} (h : Inv s) (cfg : t.cfg = s.cfg)
    (mem : Memory.wf s.mem = true → Memory.wf t.mem = true)
    (sp : t.sp < 2 ^ s.cfg.spW) (frames : ∀ f ∈ t.frames, f.sp < 2 ^ s.cfg.spW)
    (live : t.fault = none → Live t) (faulted : ∀ c, t.fault = some c → t.phase = faultWord c) :
    Inv t where
  cfg_ok := cfg ▸ h.cfg_ok
  mem_wf := mem h.mem_wf
  sp_lt := cfg ▸ sp
  frames_sp_lt := cfg ▸ frames
  live := live
  faulted := faulted

/-- The invariant speaks neither of the history nor of the lines. -/
theorem inv_of_sameMachine {s t : State} (hb : SameMachine s t) (h : Inv s) : Inv t := by
  obtain ⟨history, script, count, rfl⟩ := hb
  refine inv_of h rfl id h.sp_lt h.frames_sp_lt (fun hf => ?_) h.faulted
  have hl := h.live hf
  exact ⟨hl.phase_row, hl.idle_iff, hl.frames_ok, hl.stack_ok, hl.bank_ok, hl.depth_le,
    hl.kstack_phases, hl.off_ok⟩

theorem kstackTop_lt {cfg : Cfg} (hc : admitted cfg = true) : cfg.kstackTop < 2 ^ cfg.spW := by
  simp only [admitted, Bool.and_eq_true] at hc
  obtain ⟨-, -, h⟩ := (Admission.fieldsTyped_iff cfg).mp hc.2
  exact h

/-- Every SP value a micro-step puts in the register or in a frame is one the state already held, or
KSTACK_TOP (42_entry.md R100, R102, 45_restore.md R127). -/
theorem sp_of_microStep {s t : State} (hi : Inv s) (h : MicroStep s t) :
    t.sp < 2 ^ s.cfg.spW ∧ ∀ f ∈ t.frames, f.sp < 2 ^ s.cfg.spW := by
  have hsp := hi.sp_lt
  have hfs := hi.frames_sp_lt
  cases h with
  | @entSave f rest _ frames =>
    rw [frames] at hfs
    obtain ⟨htop, hrest⟩ := List.forall_mem_cons.mp hfs
    refine ⟨hsp, List.forall_mem_cons.mpr ⟨?_, hrest⟩⟩
    dsimp only
    split <;> assumption
  | entBankRead _ frames => exact ⟨hsp, by simpa [frames] using hfs⟩
  | entKstackSwitch =>
    refine ⟨?_, hfs⟩
    dsimp only
    split
    · exact kstackTop_lt hi.cfg_ok
    · exact hsp
  | tableLo | tableHi => exact ⟨by simpa using hsp, by simpa using hfs⟩
  | rstKstackRestore _ frames => exact ⟨hfs _ (by simp [frames]), hfs⟩
  | @rstRti f rest _ frames =>
    obtain ⟨pc, rx, spins, w, h⟩ := returnFromInterrupt_eq s f rest
    rw [h]
    exact ⟨hsp, fun g hg => hfs g (by rw [frames]; exact .tail f hg)⟩
  | _ => exact ⟨hsp, hfs⟩

/-- A micro-step records a fault only by raising it. -/
theorem fault_of_microStep {s t : State} (h : MicroStep s t) :
    t.fault = s.fault ∨ ∃ c, t.fault = some c ∧ t.phase = faultWord c := by
  cases h with
  | raised => exact .inr ⟨_, rfl, rfl⟩
  | tableLo | tableHi => exact .inl (by simp)
  | @rstRti f rest =>
    obtain ⟨pc, rx, spins, w, h⟩ := returnFromInterrupt_eq s f rest
    rw [h]
    exact .inl rfl
  | _ => exact .inl rfl

theorem inv_of_microStep {s t : State} (hi : Inv s) (hf : s.fault = none) (away : s.phase ≠ phIdle)
    (h : MicroStep s t) : Inv t := by
  obtain ⟨sp, frames⟩ := sp_of_microStep hi h
  refine inv_of hi h.keeps.cfg h.keeps.mem_wf sp frames
    (live_of_microStep hi.cfg_ok (hi.live hf) away h) fun c hc => ?_
  rcases fault_of_microStep h with h' | ⟨c', hc', hp⟩
  · rw [h', hf] at hc
    cases hc
  · rw [hc'] at hc
    cases hc
    exact hp

theorem inv_of_programStep {s t : State} (hi : Inv s) (hf : s.fault = none)
    (idle : s.phase = phIdle) (h : ProgramStep s t) : Inv t := by
  have hl := hi.live hf
  have cfg : t.cfg = s.cfg := h.keeps.cfg
  have frames : t.frames = s.frames := h.keeps.frames
  refine inv_of hi cfg h.keeps.mem_wf (cfg ▸ h.keeps.sp_lt hi.sp_lt)
    (by rw [frames]; exact hi.frames_sp_lt) (fun htf => ?_) fun c hc => ?_
  · rcases h.after with ⟨hp, _⟩ | ⟨c, hc, _⟩
    · have empty := hl.idle_iff.mp idle
      have hs := hl.stack_ok
      rw [idle, empty] at hs
      exact live_of_idle (hp.trans idle) (frames.trans empty)
        (cfg ▸ fun hk => h.keeps.ssel.trans (hs hk))
    · rw [htf] at hc
      cases hc
  · rcases h.after with ⟨_, hfault⟩ | ⟨c', hc', hp⟩
    · rw [hfault, hf] at hc
      cases hc
    · rw [hc'] at hc
      cases hc
      exact hp

/-- Acceptance: the new frame returns to the program from IDLE, and to a handler, whose frame waits
fully saved below it, otherwise (42_entry.md R98). -/
theorem live_accept {s : State} {e : Event} {ret : Position} {brk : Bool} (hl : Live s)
    (point : AcceptanceAt s ret brk) (room : s.frames.length ≠ s.cfg.maxDepth) :
    Live (acceptInterrupt s e ret brk) := by
  have hs := hl.stack_ok
  have hf := hl.frames_ok
  have depth : (newFrame s ret brk :: s.frames).length ≤ s.cfg.maxDepth :=
    Nat.lt_of_le_of_ne hl.depth_le room
  rcases point with ⟨idle, rfl⟩ | ⟨handler, -, -, rfl, rfl⟩
  · have empty := hl.idle_iff.mp idle
    rw [idle] at hs
    refine live_of_active (w := phEntSave) rfl rfl (by decide) ?_ ?_ ?_ depth (fun _ => by decide)
      (fun h => absurd h (by decide))
    · rw [empty]
      exact ⟨⟨fun h => absurd h (by decide),
        by simp [newFrame, Position.isProg, pastSave]⟩, trivial⟩
    · rw [empty] at hs ⊢
      exact hs
    · rw [empty]
      rintro (h | h)
      · exact absurd h (by decide)
      · simp at h
  · have hw := handlerPhase_of_isHandler handler
    obtain ⟨f, rest, frames⟩ := exists_top hl hw.not_idle
    have hret : isHandler (handlerWord (phaseHandler s.phase) (phaseStep s.phase)) = true := by
      rw [hw.word]
      exact handler
    rw [frames] at hf
    refine live_of_active (w := phEntSave) rfl rfl (by decide) ?_ (fun hk => ?_) (fun _ => ?_) depth
      (fun _ => by decide) (fun h => absurd h (by decide))
    · rw [frames]
      refine ⟨⟨fun _ => rfl, ?_⟩, lowerFramesOk_of_top hf hw.saved hw.source⟩
      rw [if_neg (by simp)]
      exact ⟨hret, rfl, fun _ h => absurd h (by decide), fun h => absurd h (by decide)⟩
    · have := hs hk
      simpa [hw.kernel, frames] using this
    · exact hl.bank_ok (.inl hw.forced)

theorem inv_of_effect {s t : State} (hi : Inv s) (hf : s.fault = none) (h : Effect s t) :
    Inv t := by
  have hl := hi.live hf
  cases h with
  | nothing => exact hi
  | program idle step => exact inv_of_programStep hi hf idle step
  | reset d =>
    exact inv_of hi rfl (fun _ => rfl) (Nat.mod_lt _ (by positivity)) (by simp)
      (fun _ => live_of_idle rfl rfl fun _ => rfl) (fun c hc => absurd hc (by simp [hf]))
  | accept _ point room =>
    refine inv_of hi rfl id hi.sp_lt (List.forall_mem_cons.mpr ⟨?_, hi.frames_sp_lt⟩)
      (fun _ => live_accept hl point room) (fun c hc => absurd hc (by simp [hf]))
    exact Nat.mod_lt _ (by positivity)
  | overflow info =>
    exact inv_of hi rfl id hi.sp_lt hi.frames_sp_lt (fun h => by cases h)
      (fun c hc => by cases hc; rfl)
  | nmi => exact inv_of_sameMachine (sameMachine_nmi s) hi
  | micro away step => exact inv_of_microStep hi hf away step

/-- Settles O51: every effect keeps the invariant, and the lines are no part of it. -/
theorem stepKeepsInvariant : Obligations.StepKeepsInvariant := by
  intro s t hi h
  obtain ⟨-, ⟨hf, -⟩, s', t', hs, he, ht⟩ := step_cases h
  have hf' : s'.fault = none := by
    obtain ⟨_, _, rfl⟩ := hs
    exact hf
  exact inv_of_sameMachine ht.sameMachine
    (inv_of_effect (inv_of_sameMachine hs.sameMachine hi) hf' he)

/-- Settles O50: at reset there is no frame, no known byte and SP is 0. -/
theorem invariantHoldsAtReset : Obligations.InvariantHoldsAtReset := by
  have holds : ∀ cfg, admitted cfg = true → Inv (State.resetOf cfg) := fun cfg hc =>
    ⟨hc, rfl, by simp [State.resetOf], by simp [State.resetOf],
      fun _ => live_of_idle rfl rfl fun _ => rfl, fun c hf => by cases hf⟩
  exact ⟨holds, holds Config.atReset (by decide)⟩

end Sys2Proof.Proofs.Invariant

/-! PROOFS. Who writes what: the history only grows, and the mask, the break record and the sector
counter have the writers 10_state.md R26 to R30 name. -/

namespace Sys2Proof.Proofs.Writers

open Sys2Proof Sys2Proof.Machine Sys2Proof.Proofs.MicroSteps Sys2Proof.Proofs.Effects

/-- A reset is in the history it adds. -/
theorem reset_mem_of_resetState (d : ResetDraws) (s : State) :
    Event.reset ∈ (resetState d s).history.drop s.history.length := by
  simp [List.append_assoc]

/-- Every effect adds to the history and keeps the configuration. -/
theorem history_of_effect {s t : State} (h : Effect s t) :
    s.history <+: t.history ∧ t.cfg = s.cfg := by
  cases h with
  | nothing => exact ⟨⟨[], List.append_nil _⟩, rfl⟩
  | program _ step =>
    obtain ⟨es, hes, -⟩ := step.keeps.history
    exact ⟨⟨es, hes.symm⟩, step.keeps.cfg⟩
  | reset d => exact ⟨by simp [List.append_assoc], rfl⟩
  | accept => exact ⟨by simp [List.append_assoc], rfl⟩
  | overflow => exact ⟨by simp, rfl⟩
  | nmi => exact ⟨by simp [List.append_assoc], rfl⟩
  | micro _ step =>
    obtain ⟨es, hes, -⟩ := step.keeps.history
    exact ⟨⟨es, hes.symm⟩, step.keeps.cfg⟩

/-- Settles O52: every effect adds to the history, and a faulted state has no step. -/
theorem historyOnlyGrows : Obligations.HistoryOnlyGrows := by
  intro s t h
  obtain ⟨-, ⟨hf, -⟩, _, _, ⟨_, _, rfl⟩, he, ⟨_, _, rfl⟩⟩ := step_cases h
  obtain ⟨hh, hc⟩ := history_of_effect he
  exact ⟨hh, hc, hf⟩

/-! ### The mask -/

theorem imask_of_effect {s t : State} (h : Effect s t) :
    t.imask = s.imask ∨ s.phase = phIdle ∨
      (t.imask = true ∧ Event.reset ∈ t.history.drop s.history.length) := by
  cases h with
  | nothing => exact .inl rfl
  | program idle => exact .inr (.inl idle)
  | reset d => exact .inr (.inr ⟨rfl, reset_mem_of_resetState d s⟩)
  | accept => exact .inl rfl
  | overflow => exact .inl rfl
  | nmi => exact .inl rfl
  | micro _ step => exact .inl step.keeps.imask

/-! ### The break record -/

/-- Only DSP_BRK_CHECK sets the break record, with its event (43_dispatch.md R105). -/
theorem brkUnimpl_of_microStep {s t : State} (h : MicroStep s t) :
    t.brkUnimpl = s.brkUnimpl ∨ s.phase = phDspBrkCheck ∧ t.brkUnimpl = true ∧
      Event.brkUnimplemented ∈ t.history.drop s.history.length := by
  cases h with
  | brkTaken phase => exact .inr ⟨phase, rfl, by simp⟩
  | tableLo | tableHi => exact .inl (by simp)
  | @rstRti f rest =>
    obtain ⟨pc, rx, spins, w, h⟩ := returnFromInterrupt_eq s f rest
    rw [h]
    exact .inl rfl
  | _ => exact .inl rfl

theorem brkUnimpl_of_effect {s t : State} (h : Effect s t) :
    t.brkUnimpl = s.brkUnimpl ∨
      (t.brkUnimpl = false ∧ Event.reset ∈ t.history.drop s.history.length) ∨
      s.phase = phDspBrkCheck ∧ t.brkUnimpl = true ∧
        Event.brkUnimplemented ∈ t.history.drop s.history.length := by
  cases h with
  | nothing => exact .inl rfl
  | program _ step => exact .inl step.keeps.brkUnimpl
  | reset d => exact .inr (.inl ⟨rfl, reset_mem_of_resetState d s⟩)
  | accept => exact .inl rfl
  | overflow => exact .inl rfl
  | nmi => exact .inl rfl
  | micro _ step => exact (brkUnimpl_of_microStep step).imp_right .inr

/-- Settles O53: the writers of the mask and of the break record among the effects. -/
theorem maskAndBreakRecordWriters : Obligations.MaskAndBreakRecordWriters := by
  intro s t h
  obtain ⟨-, -, s', t', ⟨_, _, rfl⟩, he, ⟨_, _, rfl⟩⟩ := step_cases h
  have hm := imask_of_effect he
  have hb := brkUnimpl_of_effect he
  dsimp only at hm hb ⊢
  refine ⟨fun hne => hm.resolve_left hne, fun hs => ?_, fun hs ht => ?_⟩
  · rcases hb with hb | ⟨-, hr⟩ | ⟨-, hb, -⟩
    · exact .inl (hb.trans hs)
    · exact .inr hr
    · exact .inl hb
  · rcases hb with hb | ⟨hb, -⟩ | ⟨hp, -, hev⟩
    · simp [hb, hs] at ht
    · simp [hb] at ht
    · exact ⟨hp, hev⟩

/-! ### The sector counter -/

/-- Only HANDLER(1,0) counts (44_handlers.md R115). -/
theorem sectorPtr_of_microStep {s t : State} (h : MicroStep s t) :
    t.sectorPtr = s.sectorPtr ∨ s.phase = handlerWord 1 0 ∧ t.phase = phRstBankWrite ∧
      t.sectorPtr = if s.cfg.sector then s.sectorPtr + 1 else s.sectorPtr := by
  cases h with
  | countSector phase => exact .inr ⟨phase, rfl, rfl⟩
  | tableLo | tableHi => exact .inl (by simp)
  | @rstRti f rest =>
    obtain ⟨pc, rx, spins, w, h⟩ := returnFromInterrupt_eq s f rest
    rw [h]
    exact .inl rfl
  | _ => exact .inl rfl

/-- An effect that changes the counter is under SECTOR, and is HANDLER(1,0) or a reset. -/
theorem sectorPtr_of_effect {s t : State} (h : Effect s t) (hne : t.sectorPtr ≠ s.sectorPtr) :
    s.cfg.sector = true ∧
      ((s.phase = handlerWord 1 0 ∧ t.phase = phRstBankWrite ∧ t.sectorPtr = s.sectorPtr + 1) ∨
        Event.reset ∈ t.history.drop s.history.length) := by
  cases h with
  | nothing => exact absurd rfl hne
  | program _ step => exact absurd step.keeps.sectorPtr hne
  | reset d =>
    refine ⟨?_, .inr (reset_mem_of_resetState d s)⟩
    by_contra hs
    exact hne (by simp [hs])
  | accept => exact absurd rfl hne
  | overflow => exact absurd rfl hne
  | nmi => exact absurd rfl hne
  | micro _ step =>
    obtain ⟨hp, ht, hsp⟩ := (sectorPtr_of_microStep step).resolve_left hne
    cases hs : s.cfg.sector with
    | false => exact absurd (by simpa [hs] using hsp) hne
    | true => exact ⟨rfl, .inl ⟨hp, ht, by simpa [hs] using hsp⟩⟩

/-- Settles O54: the writers of the sector counter among the effects. -/
theorem sectorPointerWriters : Obligations.SectorPointerWriters := by
  intro s t h hne
  obtain ⟨-, -, s', t', ⟨_, _, rfl⟩, he, ⟨_, _, rfl⟩⟩ := step_cases h
  obtain ⟨hs, hw⟩ := sectorPtr_of_effect he hne
  refine ⟨hs, hw.imp_left fun ⟨hp, ht, hsp⟩ => ⟨hp, ht, ?_⟩⟩
  dsimp only at hsp ⊢
  rw [hsp, BitVec.toNat_add]
  rfl

end Sys2Proof.Proofs.Writers

/-! PROOFS. An activation keeps the context it interrupted (10_state.md R39, R40): its bottom frame
holds the context from ENT_BANK_READ on, whatever nests above it, and the Restoring steps put it
back. -/

namespace Sys2Proof.Proofs.Restoration

open Sys2Proof Sys2Proof.Machine Sys2Proof.Proofs.MicroSteps Sys2Proof.Proofs.Effects
  Sys2Proof.Proofs.Invariant Sys2Proof.Proofs.Writers

/-! ### What is carried through an activation -/

/-- What no step of an activation accepted in `s` changes; without KSTACK that includes the stack.
-/
structure Kept (s v : State) : Prop where
  cfg : v.cfg = s.cfg
  imask : v.imask = s.imask
  pending : v.pending = s.pending
  mem : v.mem = s.mem
  stack : s.cfg.kstack = false → v.sp = s.sp ∧ v.ssel = s.ssel

/-- The frame `b` holds the context of `s`: return position, status, registers, selector and, with
KSTACK, stack (10_state.md R23). -/
structure Saved (s : State) (b : Frame) : Prop where
  ret : b.ret = .prog s.pc
  p : b.p = s.p
  regs : b.a = s.a ∧ b.x = s.x ∧ b.y = s.y
  bank : s.bank0 = some b.bank
  stack : s.cfg.kstack = true → b.sp = s.sp ∧ b.ssel = s.ssel

/-- A phase after ENT_BANK_READ and up to RST_BANK_WRITE: the context is saved and nothing of it is
put back. -/
def holding (w : PhaseWord) : Bool :=
  pastBankRead w && decide (w ≠ phIdle) && !([phRstKstackRestore, phRstPop, phRstRti].contains w)

theorem holding_iff (w : PhaseWord) : holding w = true ↔
    pastBankRead w = true ∧ w ≠ phIdle ∧ w ∉ [phRstKstackRestore, phRstPop, phRstRti] := by
  simp [holding, and_assoc]

theorem holding_of_isHandler {w : PhaseWord} (h : isHandler w = true) : holding w = true := by
  simp only [isHandler, List.contains_iff_mem, List.mem_cons, List.not_mem_nil, or_false] at h
  rcases h with rfl | rfl | rfl | rfl | rfl | rfl | rfl | rfl | rfl <;> rfl

/-- What the Restoring steps of frame `b` have put back when the phase of `v` is reached
(45_restore.md R126 to R128). -/
structure PutBack (v : State) (b : Frame) : Prop where
  bank : v.phase ∈ [phRstKstackRestore, phRstPop, phRstRti] → v.bank0 = some b.bank
  stack : v.phase ∈ [phRstPop, phRstRti] → v.cfg.kstack = true → v.sp = b.sp ∧ v.ssel = b.ssel
  regs : v.phase = phRstRti → v.a = b.a ∧ v.x = b.x ∧ v.y = b.y

/-- Where the context of `s` is in a state `v` inside the activation accepted in `s`: still in place
up to ENT_SAVE and ENT_BANK_READ of the outermost activation, then in the bottom frame. -/
inductive Carries (s v : State) : Prop
  | accepted {b} (phase : v.phase = phEntSave) (frames : v.frames = [b])
    (ret : b.ret = .prog s.pc) (p : b.p = s.p) (regs : v.a = s.a ∧ v.x = s.x ∧ v.y = s.y)
    (bank : v.bank0 = s.bank0) (stack : v.sp = s.sp ∧ v.ssel = s.ssel)
  | registersSaved {b} (phase : v.phase = phEntBankRead) (frames : v.frames = [b])
    (saved : ∀ page, s.bank0 = some page → Saved s { b with bank := page })
    (bank : v.bank0 = s.bank0)
  | saved {b} (bottom : v.frames.getLast? = some b) (saved : Saved s b)
    (outermost : v.frames = [b] → pastBankRead v.phase = true ∧ PutBack v b)

/-- The state `u` has the context of `s` back. -/
structure Restored (s u : State) : Prop where
  bank0 : u.bank0 = s.bank0
  regs : u.a = s.a ∧ u.x = s.x ∧ u.y = s.y
  p : u.p = s.p
  pc : u.pc = s.pc
  frames : u.frames = []
  fault : u.fault = none
  stack : u.sp = s.sp ∧ u.ssel = s.ssel

theorem kept_of_sameMachine {s v w : State} (hb : SameMachine v w) (h : Kept s v) : Kept s w := by
  obtain ⟨history, script, count, rfl⟩ := hb
  exact ⟨h.cfg, h.imask, h.pending, h.mem, h.stack⟩

theorem carries_of_sameMachine {s v w : State} (hb : SameMachine v w) (h : Carries s v) :
    Carries s w := by
  obtain ⟨history, script, count, rfl⟩ := hb
  cases h with
  | accepted phase frames ret p regs bank stack =>
    exact .accepted phase frames ret p regs bank stack
  | registersSaved phase frames saved bank => exact .registersSaved phase frames saved bank
  | saved bottom saved outermost =>
    exact .saved bottom saved fun h => ⟨(outermost h).1,
      ⟨(outermost h).2.bank, (outermost h).2.stack, (outermost h).2.regs⟩⟩

theorem putBack_of_holding {v : State} {b : Frame} (h : holding v.phase = true) : PutBack v b := by
  obtain ⟨-, -, h⟩ := (holding_iff v.phase).mp h
  refine ⟨fun hp => absurd hp h, fun hp => absurd (.tail _ hp) h, fun hp => absurd ?_ h⟩
  simp [hp]

/-- In a state inside the activation: it goes on, and the context is still there. -/
def Inside (s v : State) : Prop := v.phase ≠ phIdle ∧ Carries s v

/-! ### The parts a micro-step keeps -/

/-- The table reads of a checked offset show the image, so they fix no byte of memory
(43_dispatch.md R106, R108, R109). -/
theorem afterRead_ofChecked {s : State} (hc : admitted s.cfg = true)
    (hoff : latchValid s.off = true) {a : Addr}
    (ha : a = tableLoAddr s.cfg s.off ∨ a = tableHiAddr s.cfg s.off) (d : Byte) :
    afterRead s (addrTarget s.cfg a) a d = s := by
  have offset : tableOffset s.cfg a < 14 := by
    have hv := mem_sourceLatches_of_latchValid hoff
    simp only [sourceLatches, List.mem_cons, List.not_mem_nil, or_false] at hv
    rcases ha with rfl | rfl
    · rw [tableOffset, tableLoAddr, add_sub_cancel_left']
      rcases hv with h | h | h | h | h | h <;> rw [h] <;> decide
    · rw [tableOffset, tableHiAddr, BitVec.add_assoc, add_sub_cancel_left']
      rcases hv with h | h | h | h | h | h <;> rw [h] <;> decide
  rw [addrTarget_table s.cfg hc a (decide_eq_true offset), afterRead_table]

theorem mem_of_microStep {s t : State} (hc : admitted s.cfg = true) (hl : Live s)
    (h : MicroStep s t) : t.mem = s.mem := by
  cases h with
  | @tableLo d v a phase addr =>
    have hoff := hl.off_ok (by rw [phase]; decide)
    simp only [emit_mem, afterRead_ofChecked hc hoff (.inl addr)]
  | @tableHi d v a phase addr =>
    have hoff := hl.off_ok (by rw [phase]; decide)
    simp only [emit_mem, afterRead_ofChecked hc hoff (.inr addr)]
  | @rstRti f rest =>
    obtain ⟨pc, rx, spins, w, h⟩ := returnFromInterrupt_eq s f rest
    rw [h]
  | _ => rfl

/-- Without KSTACK no micro-step touches the stack (10_state.md R18). -/
theorem stack_of_microStep {s t : State} (hk : s.cfg.kstack = false) (h : MicroStep s t) :
    t.sp = s.sp ∧ t.ssel = s.ssel := by
  cases h with
  | entKstackSwitch _ kstack => simp [hk] at kstack
  | rstKstackRestore _ _ kstack => simp [hk] at kstack
  | tableLo | tableHi => simp
  | @rstRti f rest =>
    obtain ⟨pc, rx, spins, w, h⟩ := returnFromInterrupt_eq s f rest
    simp [h]
  | _ => exact ⟨rfl, rfl⟩

theorem kept_of_microStep {s v t : State} (hc : admitted v.cfg = true) (hl : Live v)
    (hk : Kept s v) (h : MicroStep v t) : Kept s t where
  cfg := h.keeps.cfg.trans hk.cfg
  imask := h.keeps.imask.trans hk.imask
  pending := h.keeps.pending.trans hk.pending
  mem := (mem_of_microStep hc hl h).trans hk.mem
  stack := fun hn => by
    obtain ⟨hsp, hsel⟩ := stack_of_microStep (hk.cfg ▸ hn) h
    exact ⟨hsp.trans (hk.stack hn).1, hsel.trans (hk.stack hn).2⟩

/-! ### The context through one step -/

/-- Past ENT_BANK_READ, of whatever activation, the bottom frame holds the context. -/
theorem saved_of_carries {s v : State} (h : Carries s v) (past : pastBankRead v.phase = true) :
    ∃ b, v.frames.getLast? = some b ∧ Saved s b ∧ (v.frames = [b] → PutBack v b) := by
  cases h with
  | accepted phase => exact absurd past (by rw [phase]; decide)
  | registersSaved phase => exact absurd past (by rw [phase]; decide)
  | saved bottom saved outermost => exact ⟨_, bottom, saved, fun h => (outermost h).2⟩

/-- A step past ENT_BANK_READ that leaves the frames alone, before the Restoring steps. -/
theorem inside_forward {s v t : State} (h : Carries s v) (past : pastBankRead v.phase = true)
    (frames : t.frames = v.frames) (next : holding t.phase = true) : Inside s t := by
  obtain ⟨b, bottom, saved, -⟩ := saved_of_carries h past
  obtain ⟨past', away, -⟩ := (holding_iff t.phase).mp next
  exact ⟨away, .saved (frames ▸ bottom) saved fun _ => ⟨past', putBack_of_holding next⟩⟩

/-- A step that replaces or adds frames above the bottom one. -/
theorem carries_above {s v t : State} {b f g : Frame} {rest : List Frame}
    (bottom : v.frames.getLast? = some b) (saved : Saved s b)
    (above : v.frames.getLast? = (g :: rest).getLast?) (frames : t.frames = f :: g :: rest) :
    Carries s t := by
  refine .saved ?_ saved fun h => ?_
  · rw [frames, List.getLast?_cons_cons, ← above, bottom]
  · rw [frames] at h
    simp at h

/-- Before the end of ENT_BANK_READ the context is in the bottom frame only if another is above it.
-/
theorem nested_of_not_past {v : State} {b f : Frame} {rest : List Frame}
    (frames : v.frames = f :: rest) (bottom : v.frames.getLast? = some b)
    (outermost : v.frames = [b] → pastBankRead v.phase = true)
    (early : pastBankRead v.phase = false) : ∃ g rest', rest = g :: rest' := by
  cases rest with
  | cons g rest' => exact ⟨g, rest', rfl⟩
  | nil =>
    rw [frames] at bottom outermost
    simp only [List.getLast?_singleton, Option.some.injEq] at bottom
    subst bottom
    rw [outermost rfl] at early
    cases early

theorem carries_entSave {s v : State} {f : Frame} {rest : List Frame} (hk : Kept s v)
    (h : Carries s v) (phase : v.phase = phEntSave) (frames : v.frames = f :: rest) :
    Carries s { v with
      frames := { f with a := v.a, x := v.x, y := v.y,
                         sp := if v.cfg.kstack then v.sp else f.sp,
                         ssel := if v.cfg.kstack then v.ssel else f.ssel } :: rest,
      phase := phEntBankRead } := by
  cases h with
  | @accepted b _ single ret p regs bank stack =>
    obtain ⟨rfl, rfl⟩ := List.cons.inj (frames.symm.trans single)
    refine .registersSaved rfl rfl (fun page hpage => ⟨ret, p, regs, hpage, fun hks => ?_⟩) bank
    have hks' : v.cfg.kstack = true := hk.cfg ▸ hks
    simpa [hks'] using stack
  | registersSaved phase' => rw [phase'] at phase; exact absurd phase (by decide)
  | saved bottom saved outermost =>
    obtain ⟨g, rest', rfl⟩ := nested_of_not_past frames bottom (fun h => (outermost h).1)
      (by rw [phase]; decide)
    exact carries_above bottom saved (by rw [frames, List.getLast?_cons_cons]) rfl

theorem carries_entBankRead {s v : State} {f : Frame} {rest : List Frame} {page : Byte}
    (h : Carries s v) (phase : v.phase = phEntBankRead) (frames : v.frames = f :: rest)
    (bank : v.bank0 = some page) :
    Carries s { v.emit (.rd bank0Addr page) with
      frames := { f with bank := page } :: rest,
      phase := if v.cfg.kstack then phEntKstackSwitch else phEntBankForce } := by
  cases h with
  | accepted phase' => rw [phase'] at phase; exact absurd phase (by decide)
  | @registersSaved b _ single saved bank' =>
    obtain ⟨rfl, rfl⟩ := List.cons.inj (frames.symm.trans single)
    have next : holding (if v.cfg.kstack then phEntKstackSwitch else phEntBankForce) = true := by
      split <;> rfl
    exact .saved rfl (saved page (bank'.symm.trans bank)) fun _ =>
      ⟨((holding_iff _).mp next).1, putBack_of_holding next⟩
  | saved bottom saved outermost =>
    obtain ⟨g, rest', rfl⟩ := nested_of_not_past frames bottom (fun h => (outermost h).1)
      (by rw [phase]; decide)
    exact carries_above bottom saved (by rw [frames, List.getLast?_cons_cons]) rfl

/-- The frame of an outermost activation is the bottom one. -/
theorem eq_of_singleton {v : State} {b f : Frame} {rest : List Frame}
    (frames : v.frames = f :: rest) (single : v.frames = [b]) : f = b :=
  (List.cons.inj (frames.symm.trans single)).1

/-- The Restoring steps before RST_RTI leave the frames alone; what each puts back of an outermost
frame is left to show. -/
theorem carries_restoring {s v t : State} {f : Frame} {rest : List Frame} (h : Carries s v)
    (past : pastBankRead v.phase = true) (top : v.frames = f :: rest) (frames : t.frames = v.frames)
    (past' : pastBankRead t.phase = true) (putBack : PutBack v f → PutBack t f) : Carries s t := by
  obtain ⟨b, bottom, saved, back⟩ := saved_of_carries h past
  refine .saved (frames ▸ bottom) saved fun single => ⟨past', ?_⟩
  rw [frames] at single
  have hf := eq_of_singleton top single
  subst hf
  exact putBack (back single)

theorem inside_rstBankWrite {s v : State} {f : Frame} {rest : List Frame} (h : Carries s v)
    (phase : v.phase = phRstBankWrite) (top : v.frames = f :: rest) :
    Inside s { v.emit (.wr bank0Addr f.bank) with
      bank0 := some f.bank, phase := if v.cfg.kstack then phRstKstackRestore else phRstPop } := by
  have past : pastBankRead v.phase = true := by rw [phase]; rfl
  cases hk : v.cfg.kstack with
  | true =>
    exact ⟨(by decide : phRstKstackRestore ≠ phIdle), carries_restoring h past top rfl rfl fun _ =>
      ⟨fun _ => rfl,
        fun hp => absurd hp (by decide : phRstKstackRestore ∉ [phRstPop, phRstRti]),
        fun hp => absurd hp (by decide : phRstKstackRestore ≠ phRstRti)⟩⟩
  | false =>
    exact ⟨(by decide : phRstPop ≠ phIdle), carries_restoring h past top rfl rfl fun _ =>
      ⟨fun _ => rfl, fun _ h => by simp [hk] at h,
        fun hp => absurd hp (by decide : phRstPop ≠ phRstRti)⟩⟩

theorem inside_rstKstackRestore {s v : State} {f : Frame} {rest : List Frame} (h : Carries s v)
    (phase : v.phase = phRstKstackRestore) (top : v.frames = f :: rest) :
    Inside s { v with sp := f.sp, ssel := f.ssel, phase := phRstPop } :=
  ⟨(by decide : phRstPop ≠ phIdle),
    carries_restoring h (by rw [phase]; rfl) top rfl rfl fun back =>
      ⟨fun _ => back.bank (by simp [phase]), fun _ _ => ⟨rfl, rfl⟩,
        fun hp => absurd hp (by decide : phRstPop ≠ phRstRti)⟩⟩

theorem inside_rstPop {s v : State} {f : Frame} {rest : List Frame} (h : Carries s v)
    (phase : v.phase = phRstPop) (top : v.frames = f :: rest) :
    Inside s { v with a := f.a, x := f.x, y := f.y, phase := phRstRti } :=
  ⟨(by decide : phRstRti ≠ phIdle),
    carries_restoring h (by rw [phase]; rfl) top rfl rfl fun back =>
      ⟨fun _ => back.bank (by simp [phase]), fun _ => back.stack (by simp [phase]),
        fun _ => ⟨rfl, rfl, rfl⟩⟩⟩

/-- RST_RTI returns to the program with the context of `s`, or to a handler of a lower activation.
-/
theorem carries_rstRti {s v : State} {f : Frame} {rest : List Frame} (hf : v.fault = none)
    (hl : Live v) (hk : Kept s v) (h : Carries s v) (phase : v.phase = phRstRti)
    (frames : v.frames = f :: rest) :
    Restored s (returnFromInterrupt v f rest) ∨
      Inside s (returnFromInterrupt v f rest) := by
  obtain ⟨b, bottom, saved, back⟩ := saved_of_carries h (by rw [phase]; decide)
  cases rest with
  | nil =>
    left
    have hb : f = b := by simpa [frames] using bottom
    subst hb
    obtain ⟨hbank, hstack, hregs⟩ := back frames
    obtain ⟨ra, rx, ry⟩ := hregs phase
    obtain ⟨sa, sx, sy⟩ := saved.regs
    have stack : v.sp = s.sp ∧ v.ssel = s.ssel := by
      cases hks : s.cfg.kstack with
      | false => exact hk.stack hks
      | true =>
        obtain ⟨h1, h2⟩ := hstack (by simp [phase]) (hk.cfg ▸ hks)
        obtain ⟨h3, h4⟩ := saved.stack hks
        exact ⟨h1.trans h3, h2.trans h4⟩
    rw [returnFromInterrupt, saved.ret]
    exact ⟨(hbank (by simp [phase])).trans saved.bank.symm,
      ⟨ra.trans sa, rx.trans sx, ry.trans sy⟩, saved.p, rfl, rfl, hf, stack⟩
  | cons g rest =>
    right
    have hfr := hl.frames_ok
    rw [frames] at hfr
    obtain ⟨⟨_, htop⟩, _⟩ := hfr
    rw [if_neg (by simp)] at htop
    have handler := htop.1
    rw [returnFromInterrupt]
    cases hr : f.ret with
    | prog pc => rw [hr] at handler; cases handler
    | hnd h st rx spins =>
      rw [hr] at handler
      have next := holding_of_isHandler handler
      obtain ⟨past, away, -⟩ := (holding_iff _).mp next
      rw [frames, List.getLast?_cons_cons] at bottom
      exact ⟨away, .saved bottom saved fun _ => ⟨past, putBack_of_holding next⟩⟩

/-- A micro-step of the activation, or of one nested in it: a fault ends the run, RST_RTI may end it
with the context back, and otherwise the context is still there. -/
theorem carries_of_microStep {s v t : State} (hf : v.fault = none) (hl : Live v) (hk : Kept s v)
    (h : Carries s v) (hm : MicroStep v t) : t.fault ≠ none ∨ Restored s t ∨ Inside s t := by
  cases hm with
  | entSave phase frames =>
    exact .inr (.inr ⟨(by decide : phEntBankRead ≠ phIdle), carries_entSave hk h phase frames⟩)
  | entBankRead phase frames bank =>
    refine .inr (.inr ⟨?_, carries_entBankRead h phase frames bank⟩)
    dsimp only
    split <;> decide
  | entKstackSwitch phase | entBankForce phase | brkTaken phase | brkClear phase
  | latchRead phase | countSector phase =>
    exact .inr (.inr (inside_forward h (by rw [phase]; decide) rfl rfl))
  | tableLo phase | tableHi phase =>
    exact .inr (.inr (inside_forward h (by rw [phase]; decide) (by simp) rfl))
  | jump phase =>
    have handler := isHandler_jump (hl.off_ok (by rw [phase]; decide))
    exact .inr (.inr (inside_forward h (by rw [phase]; decide) rfl (holding_of_isHandler handler)))
  | handlerDone handler =>
    exact .inr (.inr (inside_forward h (handlerPhase_of_isHandler handler).saved rfl rfl))
  | @handlerOn es st rx spins handler =>
    exact .inr (.inr (inside_forward h (handlerPhase_of_isHandler handler).saved rfl
      (holding_of_isHandler (isHandler_handlerWord_five st))))
  | rstBankWrite phase top => exact .inr (.inr (inside_rstBankWrite h phase top))
  | rstKstackRestore phase top => exact .inr (.inr (inside_rstKstackRestore h phase top))
  | rstPop phase top => exact .inr (.inr (inside_rstPop h phase top))
  | rstRti phase frames => exact .inr (carries_rstRti hf hl hk h phase frames)
  | raised => exact .inl (by simp)

/-! ### The activation as a run -/

/-- Acceptance at IDLE leaves the context of `s` in place, under its new frame (42_entry.md R98,
R99). -/
theorem carries_of_acceptance {s t : State} (hl : Live s) (idle : s.phase = phIdle) (h : Effect s t)
    (entered : t.phase = phEntSave) : Kept s t ∧ Carries s t := by
  have early : ∀ c, faultWord c ≠ phEntSave := fun c => by cases c <;> decide
  cases h with
  | nothing => rw [idle] at entered; exact absurd entered (by decide)
  | program _ step =>
    rcases step.after with ⟨hp, -⟩ | ⟨c, -, hp⟩
    · rw [hp, idle] at entered
      exact absurd entered (by decide)
    · exact absurd (hp.symm.trans entered) (early c)
  | reset => exact absurd entered (by decide : phIdle ≠ phEntSave)
  | accept _ point =>
    rcases point with ⟨-, rfl⟩ | ⟨handler, -⟩
    · refine ⟨⟨rfl, rfl, rfl, rfl, fun _ => ⟨rfl, rfl⟩⟩, ?_⟩
      exact .accepted rfl (by rw [acceptInterrupt_frames, hl.idle_iff.mp idle]) rfl rfl
        ⟨rfl, rfl, rfl⟩ rfl ⟨rfl, rfl⟩
    · exact absurd idle (handlerPhase_of_isHandler handler).not_idle
  | overflow => exact absurd entered (early .stackOverflow)
  | nmi => exact absurd (entered.symm.trans idle) (by decide)
  | micro away => exact absurd idle away

/-- One step inside the activation that is no reset: NMIs change nothing that is carried, a nested
acceptance puts a frame on top, and micro-steps do as `carries_of_microStep` says. -/
theorem carries_of_effect {s v t : State} (hi : Inv v) (hf : v.fault = none) (hk : Kept s v)
    (hin : Inside s v) (h : Effect v t)
    (no_reset : Event.reset ∉ t.history.drop v.history.length) :
    t.fault ≠ none ∨ Kept s t ∧ (Restored s t ∨ Inside s t) := by
  have hl := hi.live hf
  obtain ⟨away, hc⟩ := hin
  cases h with
  | nothing => exact .inr ⟨hk, .inr ⟨away, hc⟩⟩
  | program idle => exact absurd idle away
  | reset d => exact absurd (reset_mem_of_resetState d v) no_reset
  | accept _ point =>
    rcases point with ⟨idle, -⟩ | ⟨handler, -⟩
    · exact absurd idle away
    · obtain ⟨g, rest, frames⟩ := exists_top hl away
      obtain ⟨b, bottom, saved, -⟩ := saved_of_carries hc (handlerPhase_of_isHandler handler).saved
      exact .inr ⟨⟨hk.cfg, hk.imask, hk.pending, hk.mem, hk.stack⟩, .inr
        ⟨(by decide : phEntSave ≠ phIdle),
          carries_above bottom saved (by rw [frames]) (by rw [acceptInterrupt_frames, frames])⟩⟩
  | overflow => exact .inl (by simp)
  | nmi =>
    have same := sameMachine_nmi v
    exact .inr ⟨kept_of_sameMachine same hk, .inr ⟨away, carries_of_sameMachine same hc⟩⟩
  | micro _ step =>
    exact (carries_of_microStep hf hl hk hc step).imp_right fun h =>
      ⟨kept_of_microStep hi.cfg_ok hl hk step, h⟩

/-- The same for a whole step, its line apart. -/
theorem carries_of_step {s v t : State} (hi : Inv v) (hk : Kept s v) (hin : Inside s v)
    (h : step v = .next t) (no_reset : Event.reset ∉ t.history.drop v.history.length) :
    t.fault ≠ none ∨ Kept s t ∧ (Restored s t ∨ Inside s t) := by
  obtain ⟨-, ⟨hf, -⟩, v', t', hv, he, ht⟩ := step_cases h
  have hi' := inv_of_sameMachine hv.sameMachine hi
  have hk' := kept_of_sameMachine hv.sameMachine hk
  have hc' := carries_of_sameMachine hv.sameMachine hin.2
  obtain ⟨_, _, rfl⟩ := hv
  rcases carries_of_effect hi' hf hk' ⟨hin.1, hc'⟩ he (by obtain ⟨_, _, rfl⟩ := ht; exact no_reset)
    with hfault | ⟨hkt, hr | ⟨away, hct⟩⟩
  · obtain ⟨_, _, rfl⟩ := ht
    exact .inl hfault
  · refine .inr ⟨kept_of_sameMachine ht.sameMachine hkt, .inl ?_⟩
    obtain ⟨_, _, rfl⟩ := ht
    exact ⟨hr.bank0, hr.regs, hr.p, hr.pc, hr.frames, hr.fault, hr.stack⟩
  · refine .inr ⟨kept_of_sameMachine ht.sameMachine hkt, .inr
      ⟨?_, carries_of_sameMachine ht.sameMachine hct⟩⟩
    obtain ⟨_, _, rfl⟩ := ht
    exact away

/-- The first step of a run that ends in a state. -/
theorem exists_step_of_run_succ {n : Nat} {s u : State} (h : core.run (n + 1) s = .next u) :
    ∃ t, step s = .next t ∧ core.run n t = .next u := by
  cases hst : core.step s with
  | next t => exact ⟨t, hst, by simpa only [Host.Core.run, hst] using h⟩
  | fault c => simp [Host.Core.run, hst] at h
  | refused r => simp [Host.Core.run, hst] at h

theorem run_succ {n : Nat} {s t : State} (h : step s = .next t) :
    core.run (n + 1) s = core.run n t := by
  have h' : core.step s = .next t := h
  simp only [Host.Core.run, h']

theorem history_of_run {n : Nat} {s u : State} (h : core.run n s = .next u) :
    s.history <+: u.history := by
  induction n generalizing s with
  | zero => cases h; exact ⟨[], List.append_nil _⟩
  | succ n ih =>
    obtain ⟨t, hst, hrun⟩ := exists_step_of_run_succ h
    exact (historyOnlyGrows s t hst).1.trans (ih hrun)

/-- What a longer history adds splits at any history between. -/
theorem drop_of_isPrefix {xs ys zs : List Event} (h : xs <+: ys) (h' : ys <+: zs) {e : Event}
    (he : e ∉ zs.drop xs.length) : e ∉ ys.drop xs.length ∧ e ∉ zs.drop ys.length := by
  obtain ⟨as, rfl⟩ := h
  obtain ⟨bs, rfl⟩ := h'
  simp only [List.append_assoc, List.drop_left, List.mem_append, not_or] at he
  simpa using he

/-- A run inside the activation up to its first IDLE state has the context back, by induction on the
steps to come. -/
theorem restored_of_run {s : State} (n : Nat) {v u : State} (hi : Inv v) (hk : Kept s v)
    (hin : Inside s v) (hend : FirstActivationEnd v n u) : Kept s u ∧ Restored s u := by
  induction n generalizing v with
  | zero =>
    obtain ⟨hrun, idle, -⟩ := hend
    cases hrun
    exact absurd idle hin.1
  | succ n ih =>
    obtain ⟨hrun, idle, inside, no_reset⟩ := hend
    obtain ⟨t, hst, hrun'⟩ := exists_step_of_run_succ hrun
    have ht : Inv t := stepKeepsInvariant v t hi hst
    obtain ⟨no_reset_t, no_reset_u⟩ :=
      drop_of_isPrefix (historyOnlyGrows v t hst).1 (history_of_run hrun') no_reset
    have last : t.phase = phIdle ∨ t.fault ≠ none → t = u := fun h => by
      cases n with
      | zero => cases hrun'; rfl
      | succ n =>
        rcases h with h | h
        · exact absurd h (inside 1 t (by omega) (run_succ hst))
        · obtain ⟨w, hw, -⟩ := exists_step_of_run_succ hrun'
          obtain ⟨-, ⟨hf, -⟩, -⟩ := step_cases hw
          exact absurd hf h
    rcases carries_of_step hi hk hin hst no_reset_t with hfault | ⟨hkt, hr | hin'⟩
    · obtain ⟨c, hc⟩ := Option.ne_none_iff_exists'.mp hfault
      have word := ht.faulted c hc
      rw [last (.inr hfault), idle] at word
      exact absurd word (by cases c <;> decide)
    · have atIdle : t.phase = phIdle := (ht.live hr.fault).idle_iff.mpr hr.frames
      exact last (.inl atIdle) ▸ ⟨hkt, hr⟩
    · exact ih ht hkt hin' ⟨hrun', idle, fun m w hm hw =>
        inside (m + 1) w (by omega) ((run_succ hst).trans hw), no_reset_u⟩

/-- Settles O57: acceptance leaves the context in place under a new frame, and the run carries it
back. -/
theorem activationRestoresContext : Obligations.ActivationRestoresContext := by
  intro s t u n hi ⟨hf, idle⟩ hst entered hend
  obtain ⟨-, -, s', t', hs, he, ht⟩ := step_cases hst
  have hi' := inv_of_sameMachine hs.sameMachine hi
  obtain ⟨_, _, rfl⟩ := hs
  have entered' : t'.phase = phEntSave := by
    obtain ⟨_, _, rfl⟩ := ht
    exact entered
  obtain ⟨hk, hc⟩ := carries_of_acceptance (hi'.live hf) idle he entered'
  have away : t.phase ≠ phIdle := by
    rw [entered]
    decide
  obtain ⟨⟨-, imask, pending, mem, -⟩, hr⟩ :=
    restored_of_run n (stepKeepsInvariant s t hi hst) (kept_of_sameMachine ht.sameMachine hk)
      ⟨away, carries_of_sameMachine ht.sameMachine hc⟩ hend
  obtain ⟨ha, hx, hy⟩ := hr.regs
  obtain ⟨hsp, hssel⟩ := hr.stack
  exact ⟨hr.bank0, ha, hx, hy, hr.p, hr.pc, imask, hr.frames, hr.fault, hsp, hssel, pending,
    fun loc w => by rw [State.byteAt, mem]; rfl⟩

end Sys2Proof.Proofs.Restoration

/-! PROOFS. The step event: it runs the micro-step its phase word selects, and in a state of the
invariant that micro-step completes (10_state.md R35, R38, 30_encoding.md R66). -/

namespace Sys2Proof.Proofs.StepEvent

open Sys2Proof Sys2Proof.Machine Sys2Proof.Proofs.MicroSteps Sys2Proof.Proofs.Effects
  Sys2Proof.Proofs.Invariant

theorem stopped_of_running {s : State} (h : Running s) : stopped s = none :=
  (stopped_eq_none_iff s).mpr h

theorem running_of_inv {s : State} (hi : Inv s) (hf : s.fault = none) : Running s :=
  ⟨hf, (hi.live hf).phase_row.2⟩

/-- Outside IDLE a single step event is the micro-step of the phase word. -/
theorem exec_evStep_once {s : State} (hr : Running s) (away : s.phase ≠ phIdle) (d : Draws) :
    exec (.evStep .once d) s = dispatchStep d s := by
  simp only [exec, execEvStep, stopped_of_running hr, if_neg away]

/-- What a phase word decodes to has its meaning from `exec`. -/
theorem microStep_eq_exec {w : PhaseWord} {v : StepVals} {i : Instr} (h : decodePhase w v = .ok i)
    (s : State) : microStep i s = exec i s := by
  unfold decodePhase at h
  split at h <;> cases h <;> rfl

/-- Settles O6: the step event is `dispatchStep`, which runs the decoded word on the head of each
list of draws. -/
theorem stepEventRunsPhaseWord : Obligations.StepEventRunsPhaseWord := by
  intro s d i hr away hd
  refine ⟨?_, fun v vs hl => ?_, fun v vs hl => ?_, fun v vs hl => ?_⟩
  · rw [exec_evStep_once hr away, dispatchStep, hd]
    exact microStep_eq_exec hd s
  · simp [stepVals, hl]
  · simp [stepVals, hl]
  · simp [stepVals, hl]

/-! ### Completion -/

/-- In a state of the invariant no row is blocked: R66's list is outside it, and there is a top
frame. -/
theorem not_blocked {s : State} (hl : Live s) (away : s.phase ≠ phIdle) : ¬ Blocked s := by
  obtain ⟨row, no_fault⟩ := hl.phase_row
  rintro (h | h | h | ⟨hk, h⟩)
  · rw [row] at h
    cases h
  · exact h no_fault
  · exact away (hl.idle_iff.mpr h)
  · obtain ⟨h1, h2⟩ := hl.kstack_phases hk
    exact h.elim h1 h2

theorem exists_dispatchStep {s : State} (hc : admitted s.cfg = true) (hl : Live s)
    (away : s.phase ≠ phIdle) (d : Draws) :
    ∃ t, dispatchStep d s = .next t ∧ MicroStep s t := by
  have h := answers_dispatchStep hc away d
  cases ho : dispatchStep d s with
  | next t => rw [ho] at h; exact ⟨t, rfl, h⟩
  | fault c => rw [ho] at h; exact absurd h (not_blocked hl away)
  | refused r => rw [ho] at h; exact absurd h (not_blocked hl away)

/-- A handler word has code 0xA in its low bits (30_encoding.md R64), so no other row is one. -/
theorem handlerWord_ne (h : BitVec 3) (st : BitVec 2) {w : PhaseWord}
    (hw : w.extractLsb' 0 4 ≠ 0xA#4) : handlerWord h st ≠ w := by
  have code : ∀ h st, (handlerWord h st).extractLsb' 0 4 = 0xA#4 := by decide
  rintro rfl
  exact hw (code h st)

/-- Every micro-step leaves the phase it started in, or records an event. -/
theorem progress_of_microStep {s t : State} (h : MicroStep s t) :
    t.phase ≠ s.phase ∨ t.history ≠ s.history := by
  cases h with
  | entSave phase | entKstackSwitch phase | brkClear phase | countSector phase
  | rstKstackRestore phase | rstPop phase =>
    left
    rw [phase]
    exact of_decide_eq_true rfl
  | entBankRead | entBankForce | brkTaken | latchRead | tableLo | tableHi | rstBankWrite | raised =>
    right
    simp
  | @jump rx phase =>
    left
    rw [phase]
    exact handlerWord_ne _ _ (by decide)
  | handlerDone handler =>
    left
    intro e
    rw [← e] at handler
    cases handler
  | handlerOn _ _ event =>
    right
    simpa using event
  | @rstRti f rest phase =>
    left
    rw [phase, returnFromInterrupt]
    split
    · exact of_decide_eq_true rfl
    · exact handlerWord_ne _ _ (by decide)

theorem ne_of_microStep {s t : State} (h : MicroStep s t) : t ≠ s := by
  rintro rfl
  rcases progress_of_microStep h with h | h <;> exact h rfl

/-- Settles O44: no row is blocked, every micro-step makes progress, and repetition only requeues.
-/
theorem dispatcherStepCompletes : Obligations.DispatcherStepCompletes := by
  intro s mode d hi hf away
  have hr := running_of_inv hi hf
  obtain ⟨t, ht, hm⟩ := exists_dispatchStep hi.cfg_ok (hi.live hf) away d
  have once := (exec_evStep_once hr away d).trans ht
  have away' : ¬ s.phase = phIdle := away
  cases mode with
  | once => exact ⟨t, once, fun _ => ne_of_microStep hm⟩
  | run =>
    simp only [exec, execEvStep, stopped_of_running hr, if_neg away', ht]
    split
    · exact ⟨s, rfl, fun h => by cases h⟩
    · exact ⟨_, rfl, fun h => by cases h⟩
  | activation =>
    simp only [exec, execEvStep, stopped_of_running hr, if_neg away', ht]
    exact ⟨_, rfl, fun h => by cases h⟩

end Sys2Proof.Proofs.StepEvent

/-! PROOFS. The program's steps (10_state.md R16): when they run, that well-formed ones complete,
and what they leave alone. -/

namespace Sys2Proof.Proofs.ProgramSteps

open Sys2Proof Sys2Proof.Machine Sys2Proof.Proofs.Effects Sys2Proof.Proofs.StepEvent

/-! ### When a program step runs -/

theorem running_of_atIdle {s : State} (h : AtIdle s) : Running s :=
  ⟨h.1, by rw [h.2]; decide⟩

theorem programStep_own {s : State} (h : AtIdle s) (done : s.pending = .done) (again : List Line)
    (own : State → Flow) : programStep again own s = (own s).toOut := by
  have idle : s.phase = phIdle := h.2
  simp only [programStep, stopped_of_running (running_of_atIdle h), if_pos idle, if_pos done]

/-- Inside a `withBank0` the pending step is taken and the line put back (log 19). -/
theorem programStep_pending {s : State} (h : AtIdle s) (waiting : s.pending ≠ .done)
    (again : List Line) (own : State → Flow) : programStep again own s =
      (seqStep s.pending { s with script := again ++ s.script }).toOut := by
  have idle : s.phase = phIdle := h.2
  simp only [programStep, stopped_of_running (running_of_atIdle h), if_pos idle, if_neg waiting]

theorem programStep_away {s : State} (h : Running s) (away : s.phase ≠ phIdle) (again : List Line)
    (own : State → Flow) : programStep again own s = .next s := by
  have away' : ¬ s.phase = phIdle := away
  simp only [programStep, stopped_of_running h, if_neg away']

theorem exec_evProg (ops : List ProgOp) (s : State) : exec (.evProg ops) s =
    programStep (if ops = [] then [] else [.event 0 { ops := ops }]) (opsStep ops) s := rfl

theorem exec_pseudoWithBank0 (action : ProgSeq) (s : State) : exec (.pseudoWithBank0 action) s =
    programStep [.pseudo .withBank0 { action := action }] (seqStep (.withBank0 action .done)) s :=
  rfl

theorem exec_pseudoCli (s : State) : exec .pseudoCli s =
    programStep [.pseudo .cli {}] (fun t => .go { t with imask := false }) s := rfl

theorem exec_pseudoSei (s : State) : exec .pseudoSei s =
    programStep [.pseudo .sei {}] (fun t => .go { t with imask := true }) s := rfl

theorem exec_evProg_own {s : State} (h : AtIdle s) (done : s.pending = .done) (ops : List ProgOp) :
    exec (.evProg ops) s = exec (.idle ops) s := programStep_own h done _ _

/-! ### Completion -/

theorem runOp_ne_refused {s : State} {op : ProgOp}
    (hw : op.wf s.cfg = true) (r : Refusal) : runOp s op ≠ .refused r := by
  have readThen_go : ∀ t a d k, (∀ v u, k v u ≠ .refused r) → readThen s t a d k ≠ .refused r := by
    intro t a d k hk
    rcases readThen_cases s t a d k with ⟨_, _, h⟩ | ⟨v, _, h⟩ <;> rw [h]
    · simp
    · exact hk v _
  have poll_go : ∀ v ready, pollStatus s v ready id id ≠ .refused r := by
    intro v ready
    refine readThen_go _ _ _ _ fun w u => ?_
    split
    · simp
    · rcases spinCheck_cases u w with ⟨_, h⟩ | ⟨_, _, _, h⟩ | ⟨_, _, _, h⟩ <;> rw [h] <;> simp
  cases op with
  | bankRd => exact readThen_go _ _ _ _ (by simp)
  | rd a v => exact readThen_go _ _ _ _ (by simp)
  | pollRx v => exact poll_go v rxFull
  | pollTx v => exact poll_go v txEmpty
  | wr a v =>
    simp only [ProgOp.wf, Bool.and_eq_true, decide_eq_true_eq] at hw
    obtain ⟨hv, ht⟩ := hw
    rw [runOp, busAccess]
    rcases busWrite_cases s (addrTarget s.cfg a) a v with ⟨_, h⟩ | ⟨h, _⟩ | h | ⟨_, h⟩
    · rw [h]; simp
    · exact absurd h (not_or.mpr ⟨hv, ht⟩)
    · rw [h]; simp
    · rw [h]; simp
  | _ => simp [runOp, bankSwitchWrite, busWrite]

theorem runOps_ne_refused {ops : List ProgOp} {s : State}
    (hw : opsWf s.cfg ops = true) (r : Refusal) : runOps ops s ≠ .refused r := by
  induction ops generalizing s with
  | nil => simp [runOps]
  | cons op rest ih =>
    simp only [opsWf, List.all_cons, Bool.and_eq_true] at hw
    obtain ⟨hop, hrest⟩ := hw
    rw [runOps]
    cases ho : runOp s op with
    | go t =>
      have keeps := keeps_runOp s op
      rw [ho] at keeps
      have cfg := keeps.1.cfg
      exact ih (by rw [cfg]; exact hrest)
    | raised t => simp
    | refused r' => exact absurd ho (runOp_ne_refused hop r')

/-! ### What the operations leave alone beside `ProgramKeeps` -/

/-- What a program step of operations `ops` that goes on leaves alone: the temporaries, the known
bytes without a `wr`, and all of memory without a `rd` too. -/
structure OpsKeep (ops : List ProgOp) (s t : State) : Prop where
  temps : t.lo = s.lo ∧ t.hi = s.hi ∧ t.rx = s.rx
  known : (∀ a v, ProgOp.wr a v ∉ ops) → ∀ loc v,
    Memory.lookup s.mem loc = some v → Memory.lookup t.mem loc = some v
  mem : (∀ a v, ProgOp.wr a v ∉ ops) → (∀ a v, ProgOp.rd a v ∉ ops) → t.mem = s.mem

theorem OpsKeep.of_mem_eq {ops : List ProgOp} {s t : State}
    (temps : t.lo = s.lo ∧ t.hi = s.hi ∧ t.rx = s.rx) (mem : t.mem = s.mem) : OpsKeep ops s t :=
  ⟨temps, fun _ _ _ h => mem ▸ h, fun _ _ => mem⟩

theorem OpsKeep.cons {op : ProgOp} {rest : List ProgOp} {s t u : State} (h : OpsKeep [op] s t)
    (h' : OpsKeep rest t u) : OpsKeep (op :: rest) s u where
  temps := by
    obtain ⟨lo, hi, rx⟩ := h.temps
    obtain ⟨lo', hi', rx'⟩ := h'.temps
    exact ⟨lo'.trans lo, hi'.trans hi, rx'.trans rx⟩
  known := fun nw loc v hl => by
    simp only [List.mem_cons, not_or] at nw
    exact h'.known (fun a v => (nw a v).2) loc v
      (h.known (fun a v => by simpa using (nw a v).1) loc v hl)
  mem := fun nw nr => by
    simp only [List.mem_cons, not_or] at nw nr
    exact (h'.mem (fun a v => (nw a v).2) fun a v => (nr a v).2).trans
      (h.mem (fun a v => by simpa using (nw a v).1) fun a v => by simpa using (nr a v).1)

theorem lookup_afterRead_of_known {s : State} {loc : Nat} {v : Byte} (t : Target) (a : Addr)
    (d : Byte) (h : Memory.lookup s.mem loc = some v) :
    Memory.lookup (afterRead s t a d).mem loc = some v := by
  unfold afterRead
  split
  · exact lookup_learnByte_of_known _ _ h
  · exact h

theorem opsKeep_poll {ops : List ProgOp} {s t : State} {v : Byte} {ready : Byte → Bool}
    (hc : admitted s.cfg = true) (h : pollStatus s v ready id id = .go t) : OpsKeep ops s t := by
  rw [pollStatus_eq hc] at h
  split at h
  · cases h
    exact .of_mem_eq ⟨rfl, rfl, rfl⟩ rfl
  · rcases spinCheck_cases (s.emit (.rd (uartStatus s.cfg) v)) v with
      ⟨_, h'⟩ | ⟨_, _, _, h'⟩ | ⟨_, _, _, h'⟩ <;> rw [h'] at h <;> cases h
    · exact .of_mem_eq ⟨rfl, rfl, rfl⟩ rfl
    · exact .of_mem_eq ⟨rfl, rfl, rfl⟩ rfl

theorem opsKeep_runOp {s t : State} {op : ProgOp} (hc : admitted s.cfg = true)
    (h : runOp s op = .go t) : OpsKeep [op] s t := by
  cases op with
  | pollRx v => exact opsKeep_poll hc h
  | pollTx v => exact opsKeep_poll hc h
  | bankRd =>
    rcases readThen_cases s .bank0 bank0Addr 0 (fun v u => Flow.go { u with a := v }) with
      ⟨_, _, h'⟩ | ⟨v, _, h'⟩ <;> rw [runOp, bankSwitchRead, h'] at h <;> cases h
    exact .of_mem_eq ⟨rfl, rfl, rfl⟩ rfl
  | rd a v =>
    rcases readThen_cases s (addrTarget s.cfg a) a v (fun _ u => Flow.go u) with
      ⟨_, _, h'⟩ | ⟨w, _, h'⟩ <;> rw [runOp, busAccess, h'] at h <;> cases h
    exact ⟨by simp, fun _ loc w hl => lookup_afterRead_of_known _ _ _ hl,
      fun _ nr => absurd (.head _) (nr a v)⟩
  | wr a v =>
    have temps : t.lo = s.lo ∧ t.hi = s.hi ∧ t.rx = s.rx := by
      rw [runOp, busAccess] at h
      rcases busWrite_cases s (addrTarget s.cfg a) a v with ⟨_, h'⟩ | ⟨_, h'⟩ | h' | ⟨_, h'⟩ <;>
        rw [h'] at h <;> cases h <;> exact ⟨rfl, rfl, rfl⟩
    exact ⟨temps, fun nw => absurd (.head _) (nw a v), fun nw => absurd (.head _) (nw a v)⟩
  | _ =>
    cases h
    exact .of_mem_eq ⟨rfl, rfl, rfl⟩ rfl

theorem opsKeep_runOps {ops : List ProgOp} {s t : State} (hc : admitted s.cfg = true)
    (h : runOps ops s = .go t) : OpsKeep ops s t := by
  induction ops generalizing s with
  | nil => cases h; exact .of_mem_eq ⟨rfl, rfl, rfl⟩ rfl
  | cons op rest ih =>
    obtain ⟨u, ho, hrest⟩ := (andThen_eq_go_iff _ _ t).mp h
    have keeps := keeps_runOp s op
    rw [ho] at keeps
    exact (opsKeep_runOp hc ho).cons (ih (keeps.1.cfg ▸ hc) hrest)

/-- A program step that is not refused leaves all that alone, a raised fault undoing its writes
(60_exceptions.md R131). -/
theorem opsKeep_opsStep {ops : List ProgOp} {s t : State} (hc : admitted s.cfg = true)
    (h : (opsStep ops s).toOut = .next t) : OpsKeep ops s t := by
  rw [opsStep] at h
  cases hr : runOps ops s with
  | go u => rw [hr] at h; cases h; exact opsKeep_runOps hc hr
  | raised u => rw [hr] at h; cases h; exact .of_mem_eq ⟨rfl, rfl, rfl⟩ rfl
  | refused r => rw [hr] at h; cases h

theorem exists_opsStep {ops : List ProgOp} {s : State}
    (hw : opsWf s.cfg ops = true) : ∃ t, (opsStep ops s).toOut = .next t := by
  rw [opsStep]
  cases hr : runOps ops s with
  | go u => exact ⟨_, rfl⟩
  | raised u => exact ⟨_, rfl⟩
  | refused r => exact absurd hr (runOps_ne_refused hw r)

/-- A byte reads the same whatever the environment supplies exactly when it is known. -/
theorem byteAt_const_iff (s : State) (loc : Nat) (v : Byte) :
    (∀ w, s.byteAt loc w = v) ↔ Memory.lookup s.mem loc = some v := by
  unfold State.byteAt
  cases Memory.lookup s.mem loc with
  | some u => simp
  | none => simpa using ⟨v + 1, by simp⟩

/-- Settles O10: completion from `exists_opsStep`, the frame from `keeps_opsStep` and `OpsKeep`. -/
theorem programStepCompletesAndKeeps : Obligations.ProgramStepCompletesAndKeeps := by
  intro ops s hc hidle hw
  obtain ⟨t, ht⟩ := exists_opsStep hw
  obtain ⟨hf, idle⟩ := hidle
  have own := keeps_opsStep ops s
  obtain ⟨⟨lo, hi, rx⟩, known, mem⟩ := opsKeep_opsStep hc ht
  have keeps : ProgramKeeps s t ∧
      (t.phase = s.phase ∧ t.fault = s.fault ∨ ∃ c, t.fault = some c ∧ t.phase = faultWord c) := by
    rcases (toOut_eq_next_iff _ t).mp ht with h | h <;> rw [h] at own
    · exact ⟨own.1, .inl own.2⟩
    · exact ⟨own.1, .inr own.2⟩
  obtain ⟨k, after⟩ := keeps
  refine ⟨t, ht, fun done => (exec_evProg_own ⟨hf, idle⟩ done ops).trans ht, k.pending, k.ssel,
    k.frames, k.sectorPtr, k.brkUnimpl, k.cfg, k.off, lo, hi, rx, ?_, fun nw => ⟨fun loc v hv => ?_,
    fun nr loc w => ?_⟩⟩
  · exact after.imp_left fun ⟨hp, hfault⟩ => ⟨hfault.trans hf, hp.trans idle⟩
  · exact (byteAt_const_iff t loc v).mpr (known nw loc v ((byteAt_const_iff s loc v).mp hv))
  · rw [State.byteAt, mem nw nr]
    rfl

/-! ### Registers and the mask -/

/-- A program step of one operation that goes on is that operation. -/
theorem exec_idle_single {s t : State} {op : ProgOp} (h : runOp s op = .go t) :
    exec (.idle [op]) s = .next t := by
  simp [exec, execIdle, opsStep, runOps, h]

/-- Settles O8: each register operation is one field's update; an SP value that fits is not
truncated. -/
theorem programRegisterOps : Obligations.ProgramRegisterOps := by
  intro s v w n
  refine ⟨exec_idle_single rfl, exec_idle_single rfl, exec_idle_single rfl, exec_idle_single rfl,
    exec_idle_single rfl, fun hn => exec_idle_single ?_, exec_idle_single rfl, exec_idle_single rfl⟩
  rw [runOp, Nat.mod_eq_of_lt hn]

/-- The pending step `ops` of a `withBank0`, taken by an empty `prog` line: the step of the IDLE
word, but that a fault leaves it pending (log 19). -/
theorem exec_evProg_pending {s t : State} {ops : List ProgOp} {rest : ProgSeq} (h : AtIdle s)
    (waiting : s.pending = .step ops rest)
    (ht : exec (.idle ops) { s with pending := rest } = .next t) :
    (t.fault = none → exec (.evProg []) s = .next t) ∧
      (t.fault ≠ none → exec (.evProg []) s = .next { t with pending := s.pending }) := by
  have taken : exec (.evProg []) s = (precise s (runOps ops { s with pending := rest })).toOut := by
    have step := programStep_pending h (by rw [waiting]; simp) [] (opsStep [])
    exact step.trans (congrArg (fun seq => (seqStep seq s).toOut) waiting)
  have keeps := keeps_runOps ops { s with pending := rest }
  rw [taken]
  rw [exec, execIdle, opsStep] at ht
  cases hr : runOps ops { s with pending := rest } with
  | go u =>
    rw [hr] at ht keeps
    cases ht
    obtain ⟨-, -, hfault⟩ := keeps
    exact ⟨fun _ => rfl, fun hf => absurd (hfault.trans h.1) hf⟩
  | raised u =>
    rw [hr] at ht keeps
    cases ht
    obtain ⟨-, c, hc, -⟩ := keeps
    exact ⟨fun hf => by simp [hc] at hf, fun _ => rfl⟩
  | refused r => rw [hr] at ht; cases ht

/-- Settles O14: the three cases of `programStep`, and a pending step by `exec_evProg_pending`. -/
theorem maskPseudoOps : Obligations.MaskPseudoOps := by
  intro s
  simp only [exec_pseudoCli, exec_pseudoSei, exec_pseudoWithBank0]
  refine ⟨fun h done => ⟨programStep_own h done _ _, programStep_own h done _ _⟩,
    fun h away => ⟨programStep_away h away _ _, programStep_away h away _ _⟩,
    fun h ops rest waiting => ?_⟩
  have ne : s.pending ≠ .done := by rw [waiting]; simp
  have putBack : ∀ l own, programStep [l] own s =
      exec (.evProg []) { s with script := l :: s.script } := fun l own =>
    (programStep_pending h ne [l] own).trans
      (programStep_pending (s := { s with script := l :: s.script }) h ne [] (opsStep [])).symm
  refine ⟨putBack _ _, putBack _ _, fun action => putBack _ _, fun own hown => ?_,
    fun t ht => exec_evProg_pending h waiting ht⟩
  rw [exec_evProg, if_neg hown]
  exact putBack _ _

end Sys2Proof.Proofs.ProgramSteps

/-! PROOFS. Taking a line (10_state.md R35), and the state after reset (10_state.md R37). -/

namespace Sys2Proof.Proofs.LinesAndReset

open Sys2Proof Sys2Proof.Machine Sys2Proof.Proofs.Effects Sys2Proof.Proofs.Admission

theorem nextLine_cons {s : State} {l : Line} {rest : List Line} (h : s.script = l :: rest) :
    nextLine s = (l, { s with script := rest, drawCount := s.drawCount + 1 }) := by
  simp only [nextLine, h]

theorem nextLine_nil {s : State} (h : s.script = []) :
    nextLine s = (Config.freeLine s.drawCount, { s with drawCount := s.drawCount + 1 }) := by
  simp only [nextLine, h]

theorem step_of_decodeLine {s : State} {i : Instr} (hc : admitted s.cfg = true)
    (h : decodeLine (nextLine s).1 = .ok i) : step s = exec i (nextLine s).2 := by
  simp only [step, hc, if_true, h]

/-- A line that does not decode is refused with the decoder's reason (30_encoding.md R80). -/
theorem step_of_rejected {s : State} {e : DecodeError} (hc : admitted s.cfg = true)
    (h : decodeLine (nextLine s).1 = .error e) : step s = .refused (refusalOf e) := by
  simp only [step, hc, if_true, h]

/-- Settles O1: the two cases of `nextLine`, and the two of `decodeLine`. -/
theorem stepRunsDecodedLine : Obligations.StepRunsDecodedLine := by
  intro s hc
  refine ⟨fun l rest h => nextLine_cons h, fun h => ?_, fun i h => step_of_decodeLine hc h,
    fun p rest h => ?_, fun p rest h => ?_⟩
  · rw [nextLine_nil h]
  · exact step_of_rejected (e := .reservedEvent 6) hc (by rw [nextLine_cons h]; rfl)
  · exact step_of_rejected (e := .reservedEvent 7) hc (by rw [nextLine_cons h]; rfl)

/-- The reset entry as the vector's two bytes, high one first (20_memory.md R41). -/
theorem resetEntry_bytes {cfg : Cfg} (hc : admitted cfg = true) :
    word16 cfg.vec.reset.hi cfg.vec.reset.lo = cfg.resetEntry ∧
      cfg.vec.reset.lo = lowByte cfg.resetEntry ∧ cfg.vec.reset.hi = highByte cfg.resetEntry := by
  obtain ⟨-, h, -⟩ := vectors_spell cfg hc
  exact ⟨h, (entryValue_eq_iff cfg.vec.reset cfg.resetEntry).mp h⟩

theorem evReset_cases {s t : State} {d : ResetDraws} (h : exec (.evReset d) s = .next t) :
    s.fault = none ∧ t = resetState d s := by
  cases hs : stopped s with
  | some c =>
    rw [exec_of_stopped (.reset d) hs] at h
    cases h
  | none =>
    simp only [exec, execEvReset, hs] at h
    cases h
    exact ⟨((stopped_eq_none_iff s).mp hs).1, rfl⟩

/-- Settles O38: the fields of `State.resetOf` and of `resetState`, the reset vector spelling
RESET_ENTRY. -/
theorem stateAfterReset : Obligations.StateAfterReset := by
  intro cfg hc
  obtain ⟨entry, hlo, hhi⟩ := resetEntry_bytes hc
  refine ⟨⟨⟨rfl, rfl, entry, rfl, rfl, rfl, rfl, rfl⟩, ?_⟩, fun s t d hs h => ?_⟩
  · rw [← hlo, ← hhi]
    rfl
  · subst hs
    obtain ⟨hf, rfl⟩ := evReset_cases h
    refine ⟨⟨rfl, rfl, entry, rfl, rfl, rfl, rfl, hf⟩, ?_⟩
    rw [← hlo, ← hhi, resetState_history, List.append_assoc, List.append_assoc]
    rfl

end Sys2Proof.Proofs.LinesAndReset

/-! PROOFS. The bus rows of devices and of the banked window (20_memory.md R43 to R45): a device access
is its event alone; a window access uses the page of the moment, and the one byte it stores or fixes
is the only one that changes. -/

namespace Sys2Proof.Proofs.BusRows

open Sys2Proof Sys2Proof.Machine

/-! ### Devices -/

/-- The targets that hold no byte of the block: the latch and the UART (20_memory.md R47, R50). -/
def IsDevice (t : Target) : Prop := t = .intLatch ∨ t = .uart

theorem busAccess_read_device {t : Target} (ht : IsDevice t) (s : State) (a : Addr) (d : Byte) :
    busAccess s t a (.read d) = .go (s.emit (.rd a d)) := by
  rcases ht with rfl | rfl <;> rfl

theorem busAccess_write_device {t : Target} (ht : IsDevice t) (s : State) (a : Addr) (v : Byte) :
    busAccess s t a (.write v) = .go (s.emit (.wr a v)) := by
  rcases ht with rfl | rfl <;> rfl

/-- A row whose meaning is one read of a device. -/
theorem exec_read_device {i : Instr} {s : State} {t : Target} {a : Addr} {d : Byte}
    (hi : exec i s = (busAccess s t a (.read d)).toOut) (ht : IsDevice t) :
    exec i s = .next (s.emit (.rd a d)) := by
  rw [hi, busAccess_read_device ht, toOut_go]

/-- A row whose meaning is one write of a device. -/
theorem exec_write_device {i : Instr} {s : State} {t : Target} {a : Addr} {v : Byte}
    (hi : exec i s = (busAccess s t a (.write v)).toOut) (ht : IsDevice t) :
    exec i s = .next (s.emit (.wr a v)) := by
  rw [hi, busAccess_write_device ht, toOut_go]

/-- Settles O45: each row is one access of a device, the latch's or the UART's, at its address. -/
theorem deviceRowsRecordAccess : Obligations.DeviceRowsRecordAccess := by
  intro s v
  have latch : IsDevice .intLatch := .inl rfl
  have uart : IsDevice .uart := .inr rfl
  exact ⟨exec_read_device rfl latch, exec_write_device rfl latch,
    exec_read_device rfl uart, exec_write_device rfl uart,
    exec_read_device rfl uart, exec_write_device rfl uart,
    exec_read_device rfl uart, exec_write_device rfl uart,
    exec_read_device rfl uart, exec_write_device rfl uart⟩

/-! ### The page of the moment -/

theorem memoryLoc_window_page {s : State} {b : Byte} (a : Addr) (hb : s.bank0 = some b)
    (hn : b.toNat < s.cfg.nBanks) : memoryLoc s .window a = some (bankedLoc b a) := by
  simp [memoryLoc, hb, hn]

/-- A selector at or above N_BANKS names no page (20_memory.md R45). -/
theorem memoryLoc_window_absent {s : State} {b : Byte} (a : Addr) (hb : s.bank0 = some b)
    (hn : s.cfg.nBanks ≤ b.toNat) : memoryLoc s .window a = none := by
  simp [memoryLoc, hb, hn]

/-- An unwritten selector names no page to read (log 10). -/
theorem memoryLoc_window_unwritten {s : State} (a : Addr) (hb : s.bank0 = none) :
    memoryLoc s .window a = none := by
  simp [memoryLoc, hb]

theorem writePage_of_written {s : State} {b : Byte} (hb : s.bank0 = some b) : writePage s = b := by
  simp [writePage, hb]

/-! ### Window accesses -/

theorem exec_window_read_page {s : State} {a : Addr} {loc : Nat} (d : Byte)
    (h : memoryLoc s .window a = some loc) :
    exec (.addrWindow a (.read d)) s = .next { s with
      history := s.history ++ [.rd a (s.byteAt loc d)], mem := (s.learnByte loc d).mem } := by
  have row : exec (.addrWindow a (.read d)) s = (busAccess s .window a (.read d)).toOut := rfl
  rw [row, busAccess_read_of_loc d h, toOut_go, learnByte_eq]
  rfl

theorem exec_window_read_draw {s : State} {a : Addr} (d : Byte)
    (h : memoryLoc s .window a = none) :
    exec (.addrWindow a (.read d)) s = .next (s.emit (.rd a d)) := by
  have row : exec (.addrWindow a (.read d)) s = (busAccess s .window a (.read d)).toOut := rfl
  rw [row, busAccess_read_window_draw d h, toOut_go]

theorem exec_window_write_page {s : State} (a : Addr) (v : Byte)
    (h : (writePage s).toNat < s.cfg.nBanks) :
    exec (.addrWindow a (.write v)) s = .next { s with
      history := s.history ++ [.wr a v],
      mem := (s.storeByte (bankedLoc (writePage s) a) v).mem } := by
  simp only [exec, execAddrWindow, busAccess, busWrite, if_pos h]
  rfl

/-- A write to a page that does not exist is lost (20_memory.md R45). -/
theorem exec_window_write_lost {s : State} (a : Addr) (v : Byte)
    (h : s.cfg.nBanks ≤ (writePage s).toNat) :
    exec (.addrWindow a (.write v)) s = .next (s.emit (.wr a v)) := by
  simp only [exec, execAddrWindow, busAccess, busWrite, if_neg (Nat.not_lt.mpr h)]
  rfl

/-! ### The one byte that changes -/

/-- With memory `m` in place of its own, `s` reads `u` at address `a` of page `b` and every other byte,
of the window or outside it, as before. -/
def OnlyByte (s : State) (a : Addr) (m : Memory) (b u : Byte) : Prop :=
  ∀ b' a' w,
    ({ s with mem := m } : State).byteAt (bankedLoc b' a') w =
        (if b' = b ∧ a' = a then u else s.byteAt (bankedLoc b' a') w) ∧
      ({ s with mem := m } : State).byteAt (plainLoc a') w = s.byteAt (plainLoc a') w

/-- A memory that differs at one location of the window differs in one byte of one page: no two bytes
share a location (20_memory.md R45). -/
theorem onlyByte_of_byteAt {s : State} {a : Addr} {m : Memory} {b u : Byte}
    (h : ∀ loc w, ({ s with mem := m } : State).byteAt loc w =
      if loc = bankedLoc b a then u else s.byteAt loc w) : OnlyByte s a m b u := by
  intro b' a' w
  constructor
  · simp only [h, bankedLoc_injective]
  · rw [h, if_neg (bankedLoc_ne_plainLoc b a a').symm]

theorem onlyByte_storeByte (s : State) (a : Addr) (b v : Byte) :
    OnlyByte s a (s.storeByte (bankedLoc b a) v).mem b v :=
  onlyByte_of_byteAt fun loc w => byteAt_storeByte s (bankedLoc b a) loc v w

theorem onlyByte_learnByte (s : State) (a : Addr) (b d : Byte) :
    OnlyByte s a (s.learnByte (bankedLoc b a) d).mem b (s.byteAt (bankedLoc b a) d) :=
  onlyByte_of_byteAt fun loc w => byteAt_learnByte s (bankedLoc b a) loc d w

/-- A write to a page that exists stores its byte there and nowhere else. -/
theorem exists_window_write {s : State} (a : Addr) (v : Byte)
    (h : (writePage s).toNat < s.cfg.nBanks) :
    ∃ m, exec (.addrWindow a (.write v)) s =
        .next { s with history := s.history ++ [.wr a v], mem := m } ∧
      OnlyByte s a m (writePage s) v :=
  ⟨_, exec_window_write_page a v h, onlyByte_storeByte s a (writePage s) v⟩

/-- Settles O48: the selector names a page, names none, or is unwritten; in each case the location a
read uses and the page a write goes to say what the access does. -/
theorem windowUsesSelectedPage : Obligations.WindowUsesSelectedPage := by
  intro s a v _
  refine ⟨fun b hb hn => ⟨?read, ?write⟩, fun b hb hn => ⟨?shown, ?lost⟩, fun hb => ⟨?drawn,
    fun hn => exists_window_write a v hn, fun hn => exec_window_write_lost a v hn⟩⟩
  case read =>
    exact ⟨_, exec_window_read_page v (memoryLoc_window_page a hb hn), onlyByte_learnByte s a b v⟩
  case write =>
    rw [← writePage_of_written hb] at hn ⊢
    exact exists_window_write a v hn
  case shown => exact exec_window_read_draw v (memoryLoc_window_absent a hb hn)
  case lost =>
    rw [← writePage_of_written hb] at hn
    exact exec_window_write_lost a v hn
  case drawn => exact exec_window_read_draw v (memoryLoc_window_unwritten a hb)

end Sys2Proof.Proofs.BusRows

/-! PROOFS. The encoding tables in both directions (30_encoding.md R63 to R79): decoding the code of
an operation gives the operation back, and a latch byte or bus access that decodes is the code of
the operation it decodes to. -/

namespace Sys2Proof.Proofs.Encoding

open Sys2Proof Sys2Proof.Machine Sys2Proof.Proofs.Admission

/-- Settles O3: each decoder evaluated at the word. -/
theorem sampleWordsDecode : Obligations.SampleWordsDecode :=
  ⟨rfl, rfl, rfl, rfl, rfl, rfl, rfl, rfl, rfl⟩

/-! ### Latch bytes -/

/-- An odd byte, with its free bits (30_encoding.md R69). -/
theorem decodeLatch_odd (n : BitVec 7) : decodeLatch (n ++ 1#1) = .latchReservedOdd n := by
  have bits : ∀ n : BitVec 7,
      (n ++ 1#1).extractLsb' 0 1 = 1#1 ∧ (n ++ 1#1).extractLsb' 1 7 = n := by decide
  obtain ⟨odd, free⟩ := bits n
  rw [decodeLatch, if_pos odd, free]

theorem decodeLatch_10To1E :
    ∀ n : BitVec 3, decodeLatch (0x1#4 ++ n ++ 0#1) = .latchReserved10To1E n := by decide

theorem decodeLatch_20To3E :
    ∀ n : BitVec 4, decodeLatch (0x1#3 ++ n ++ 0#1) = .latchReserved20To3E n := by decide

theorem decodeLatch_40To7E :
    ∀ n : BitVec 5, decodeLatch (0x1#2 ++ n ++ 0#1) = .latchReserved40To7E n := by decide

theorem decodeLatch_80ToFE :
    ∀ n : BitVec 6, decodeLatch (0x1#1 ++ n ++ 0#1) = .latchReserved80ToFE n := by decide

/-- Every byte is one of the eight that R68, R69 list by value, or has the shape of one of the five
masked rows. -/
theorem latch_rows : ∀ v : Byte,
    v ∈ [0x00#8, 0x02#8, 0x04#8, 0x06#8, 0x08#8, 0x0A#8, 0x0C#8, 0x0E#8] ∨
      v = v.extractLsb' 1 7 ++ 1#1 ∨ v = 0x1#4 ++ v.extractLsb' 1 3 ++ 0#1 ∨
      v = 0x1#3 ++ v.extractLsb' 1 4 ++ 0#1 ∨ v = 0x1#2 ++ v.extractLsb' 1 5 ++ 0#1 ∨
      v = 0x1#1 ++ v.extractLsb' 1 6 ++ 0#1 := by decide

theorem encode_decodeLatch (cfg : Cfg) (v : Byte) : encode cfg (decodeLatch v) = .latch v := by
  rcases latch_rows v with h | h | h | h | h | h
  case inl =>
    simp only [List.mem_cons, List.not_mem_nil, or_false] at h
    rcases h with rfl | rfl | rfl | rfl | rfl | rfl | rfl | rfl <;> rfl
  all_goals rw [h]
  · rw [decodeLatch_odd]; rfl
  · rw [decodeLatch_10To1E]; rfl
  · rw [decodeLatch_20To3E]; rfl
  · rw [decodeLatch_40To7E]; rfl
  · rw [decodeLatch_80ToFE]; rfl

/-! ### Bus addresses -/

/-- The test of 30_encoding.md R70 that a target stands for. -/
def Selects (cfg : Cfg) (a : Addr) (t : Target) : Prop :=
  match t with
  | .bank0 => a = bank0Addr
  | .intLatch => a = latchAddr
  | .vector => inVectors a = true
  | .table => inTable cfg a = true
  | .uart => inUart cfg a = true
  | .window => inWindow cfg a = true
  | .memory => inWindow cfg a = false

theorem selects_addrTarget (cfg : Cfg) (a : Addr) : Selects cfg a (addrTarget cfg a) := by
  unfold addrTarget
  split_ifs <;> simp_all [Selects]

theorem inVectors_iff (a : Addr) :
    inVectors a = true ↔ ∃ hi, a = vectorAddr nmiVector hi ∨ a = vectorAddr resetVector hi ∨
      a = vectorAddr irqVector hi := by
  constructor
  · intro h
    have hm : a ∈ fixedAddrs := (mem_fixedAddrs_iff a).mpr (.inr (.inr h))
    simp only [fixedAddrs, List.mem_cons, List.not_mem_nil, or_false] at hm
    rcases hm with rfl | rfl | rfl | rfl | rfl | rfl | rfl | rfl
    · cases h
    · cases h
    · exact ⟨false, .inl rfl⟩
    · exact ⟨true, .inl rfl⟩
    · exact ⟨false, .inr (.inl rfl)⟩
    · exact ⟨true, .inr (.inl rfl)⟩
    · exact ⟨false, .inr (.inr rfl)⟩
    · exact ⟨true, .inr (.inr rfl)⟩
  · rintro ⟨hi, h⟩
    obtain ⟨nmi, reset, irq⟩ := inVectors_vectorAddr hi
    rcases h with rfl | rfl | rfl
    · exact nmi
    · exact reset
    · exact irq

/-- Every byte of the table is the low or the high byte of one of its seven slots (20_memory.md
R48). -/
theorem exists_slotAddr {cfg : Cfg} {a : Addr} (h : inTable cfg a = true) :
    ∃ k < 7, ∃ hi, a = slotAddr cfg k hi := by
  obtain ⟨o, ho, rfl⟩ := (inTable_iff cfg a).mp h
  refine ⟨o / 2, by omega, decide (o % 2 = 1), ?_⟩
  have split : o = 2 * (o / 2) + (decide (o % 2 = 1)).toNat := by
    by_cases hodd : o % 2 = 1 <;> simp [hodd] <;> omega
  rw [slotAddr, ← split]

theorem decodeBus_slotAddr {cfg : Cfg} (hc : admitted cfg = true) {k : Nat} (hk : k < 7) (hi : Bool)
    (d : Byte) :
    decodeBus cfg (slotAddr cfg k hi) (.read d) = .ok (decodeSlot (2 * k + hi.toNat)) := by
  simp only [decodeBus, addrTarget_slotAddr cfg hc k hi hk, tableOffset_slotAddr cfg k hi hk]

theorem decodeBus_uart {cfg : Cfg} (hc : admitted cfg = true) {r : Nat} (hr : r < 4)
    (acc : Access) :
    decodeBus cfg (cfg.uartBase + BitVec.ofNat 16 r) acc = .ok (decodeUart r acc) := by
  have target := addrTarget_uart cfg hc _ ((mem_uartAddrs_iff cfg _).mpr ⟨r, hr, rfl⟩)
  have offset : uartOffset cfg (cfg.uartBase + BitVec.ofNat 16 r) = r := by
    rw [uartOffset, add_sub_cancel_left', BitVec.toNat_ofNat]
    omega
  simp only [decodeBus, target, offset]

/-! ### Decoding the code of an operation -/

/-- Settles O4, row by row: a phase word, a line and a window access carry every operand as it is;
the masked latch rows and the rows at an address counted from a base are the lemmas above. -/
theorem decodeEncodeRoundTrip : Obligations.DecodeEncodeRoundTrip := by
  intro cfg i hc hw
  have slot : ∀ k < 7, ∀ hi, decode cfg (.bus (slotAddr cfg k hi) (.read 0)) =
      .ok (decodeSlot (2 * k + hi.toNat)) := fun k hk hi => decodeBus_slotAddr hc hk hi 0
  have uart : ∀ r < 4, ∀ acc, decode cfg (.bus (cfg.uartBase + BitVec.ofNat 16 r) acc) =
      .ok (decodeUart r acc) := fun r hr acc => decodeBus_uart hc hr acc
  have data := uart 0 (by decide)
  rw [BitVec.add_zero] at data
  cases i with
  | latchReservedOdd n => exact congrArg Except.ok (decodeLatch_odd n)
  | latchReserved10To1E n => exact congrArg Except.ok (decodeLatch_10To1E n)
  | latchReserved20To3E n => exact congrArg Except.ok (decodeLatch_20To3E n)
  | latchReserved40To7E n => exact congrArg Except.ok (decodeLatch_40To7E n)
  | latchReserved80ToFE n => exact congrArg Except.ok (decodeLatch_80ToFE n)
  | addrIntLatch acc => cases acc <;> rfl
  | addrVecNmi hi | addrVecReset hi | addrVecIrq hi => cases hi <;> rfl
  | addrJtSlot0 hi => exact (slot 0 (by decide) hi).trans (by cases hi <;> rfl)
  | addrJtSlot1 hi => exact (slot 1 (by decide) hi).trans (by cases hi <;> rfl)
  | addrJtSlot2 hi => exact (slot 2 (by decide) hi).trans (by cases hi <;> rfl)
  | addrJtSlot3 hi => exact (slot 3 (by decide) hi).trans (by cases hi <;> rfl)
  | addrJtSlot4 hi => exact (slot 4 (by decide) hi).trans (by cases hi <;> rfl)
  | addrJtSlot5 hi => exact (slot 5 (by decide) hi).trans (by cases hi <;> rfl)
  | addrJtSlot6 hi => exact (slot 6 (by decide) hi).trans (by cases hi <;> rfl)
  | addrUartDataRead d => exact data (.read d)
  | addrUartDataWrite b => exact data (.write b)
  | addrUartStatus acc => exact uart 1 (by decide) acc
  | addrUartCmd acc => exact uart 2 (by decide) acc
  | addrUartCtrl acc => exact uart 3 (by decide) acc
  | addrWindow a acc =>
    have window : addrTarget cfg a = .window := of_decide_eq_true hw
    simp only [encode, decode, decodeBus, window]
  | _ => rfl

/-! ### Encoding what a bus access decodes to -/

/-- A read here returns what the machine itself holds, not a draw: BANK0 and the image (20_memory.md
R43). -/
def Undrawn (t : Target) : Prop := t = .bank0 ∨ t = .vector ∨ t = .table

/-- `i` is a well-formed operation whose code is the access `acc` at `a`, up to a draw that is not
used. -/
structure Coded (cfg : Cfg) (a : Addr) (acc : Access) (i : Instr) : Prop where
  wf : i.wf cfg = true
  code : ∃ acc', encode cfg i = .bus a acc' ∧
    (acc' = acc ∨ ∃ d, acc = .read d ∧ acc' = .read 0 ∧ Undrawn (addrTarget cfg a))

theorem coded_vector {cfg : Cfg} {a : Addr} (d : Byte) (h : inVectors a = true) :
    Coded cfg a (.read d) (decodeVector a) := by
  have undrawn : Undrawn (addrTarget cfg a) := .inr (.inl (addrTarget_vector cfg a h))
  obtain ⟨hi, rfl | rfl | rfl⟩ := (inVectors_iff a).mp h <;>
    cases hi <;> exact ⟨rfl, _, rfl, .inr ⟨d, rfl, rfl, undrawn⟩⟩

theorem coded_table {cfg : Cfg} (hc : admitted cfg = true) {a : Addr} (d : Byte)
    (h : inTable cfg a = true) : Coded cfg a (.read d) (decodeSlot (tableOffset cfg a)) := by
  have undrawn : Undrawn (addrTarget cfg a) := .inr (.inr (addrTarget_table cfg hc a h))
  obtain ⟨k, hk, hi, rfl⟩ := exists_slotAddr h
  rw [tableOffset_slotAddr cfg k hi hk]
  interval_cases k <;> cases hi <;> exact ⟨rfl, _, rfl, .inr ⟨d, rfl, rfl, undrawn⟩⟩

theorem coded_uart {cfg : Cfg} {r : Nat} (hr : r < 4) (acc : Access) :
    Coded cfg (cfg.uartBase + BitVec.ofNat 16 r) acc (decodeUart r acc) := by
  interval_cases r
  · rw [BitVec.add_zero]
    cases acc <;> exact ⟨rfl, _, rfl, .inl rfl⟩
  all_goals exact ⟨rfl, _, rfl, .inl rfl⟩

/-- An access that decodes is the code of the operation it decodes to. -/
theorem coded_of_decodeBus {cfg : Cfg} (hc : admitted cfg = true) {a : Addr} {acc : Access}
    {i : Instr} (h : decodeBus cfg a acc = .ok i) : Coded cfg a acc i := by
  have sel := selects_addrTarget cfg a
  cases ht : addrTarget cfg a <;> rw [ht] at sel
  case bank0 =>
    obtain rfl : a = bank0Addr := sel
    cases acc <;> cases h
    · exact ⟨rfl, _, rfl, .inr ⟨_, rfl, rfl, .inl rfl⟩⟩
    · exact ⟨rfl, _, rfl, .inl rfl⟩
  case intLatch =>
    obtain rfl : a = latchAddr := sel
    cases acc <;> cases h <;> exact ⟨rfl, _, rfl, .inl rfl⟩
  case vector =>
    cases acc <;> simp only [decodeBus, ht] at h <;> cases h
    exact coded_vector _ sel
  case table =>
    cases acc <;> simp only [decodeBus, ht] at h <;> cases h
    exact coded_table hc _ sel
  case uart =>
    obtain ⟨r, hr, rfl⟩ := (mem_uartAddrs_iff cfg a).mp ((inUart_iff cfg a).mp sel)
    rw [decodeBus_uart hc hr] at h
    cases h
    exact coded_uart hr acc
  case window =>
    simp only [decodeBus, ht] at h
    cases h
    exact ⟨decide_eq_true ht, _, rfl, .inl rfl⟩
  case memory => simp only [decodeBus, ht] at h; cases h

/-- Settles O5: `encode_decodeLatch`, and `coded_of_decodeBus` without what it says of the draw. -/
theorem busAndLatchEncodeDecode : Obligations.BusAndLatchEncodeDecode := by
  refine ⟨encode_decodeLatch, fun cfg a acc i hc h => ?_⟩
  obtain ⟨wf, acc', code, same⟩ := coded_of_decodeBus hc h
  exact ⟨wf, acc', code, same.imp_right fun ⟨d, hd, hd', _⟩ => ⟨d, hd, hd'⟩⟩

end Sys2Proof.Proofs.Encoding

/-! PROOFS. The rows of the bus and of the latch as meanings: what the operation of a code does is
the access, or the latch check, that the code stands for (30_encoding.md R68 to R70, R73, R74, R78).
-/

namespace Sys2Proof.Proofs.EncodedRows

open Sys2Proof Sys2Proof.Machine Sys2Proof.Proofs.Admission Sys2Proof.Proofs.Encoding

/-! ### Latch rows -/

theorem exec_of_encode_latch {cfg : Cfg} {i : Instr} {v : Byte} (h : encode cfg i = .latch v)
    (s : State) :
    exec i s = (if latchValid v then latchAccept v s else latchUnmapped v s).toOut := by
  have odd : ∀ n : BitVec 7, latchValid (n ++ 1#1) = false := by decide
  have from10 : ∀ n : BitVec 3, latchValid (0x1#4 ++ n ++ 0#1) = false := by decide
  have from20 : ∀ n : BitVec 4, latchValid (0x1#3 ++ n ++ 0#1) = false := by decide
  have from40 : ∀ n : BitVec 5, latchValid (0x1#2 ++ n ++ 0#1) = false := by decide
  have from80 : ∀ n : BitVec 6, latchValid (0x1#1 ++ n ++ 0#1) = false := by decide
  cases i <;> cases h
  case latchReservedOdd n => rw [odd n]; rfl
  case latchReserved10To1E n => rw [from10 n]; rfl
  case latchReserved20To3E n => rw [from20 n]; rfl
  case latchReserved40To7E n => rw [from40 n]; rfl
  case latchReserved80ToFE n => rw [from80 n]; rfl
  all_goals rfl

/-- Settles O24: the rows by definition, and the reading micro-step by the code of the row its byte
decodes to. -/
theorem latchRowsAcceptOrFault : Obligations.LatchRowsAcceptOrFault := by
  intro s
  refine ⟨⟨rfl, rfl, rfl, rfl, rfl, rfl⟩, ⟨rfl, rfl, fun _ => rfl, fun _ => rfl, fun _ => rfl,
    fun _ => rfl, fun _ => rfl⟩, fun v => ?_⟩
  exact (exec_of_encode_latch (encode_decodeLatch s.cfg v) (s.emit (.rd latchAddr v))).symm

/-! ### Image rows -/

/-- A row whose meaning is one read of the image. -/
theorem exec_read_image {i : Instr} {s : State} {t : Target} {a : Addr} {v : Byte}
    (hi : exec i s = (busAccess s t a (.read 0)).toOut) (ht : t = .vector ∨ t = .table)
    (hv : readValue s t a 0 = some v) : exec i s = .next (s.emit (.rd a v)) := by
  rw [hi, busAccess, readThen_of_value _ hv]
  rcases ht with rfl | rfl <;> rfl

/-- Settles O46: the vectors of an admitted configuration hold the bytes of the three entries. -/
theorem vectorRowsReadImage : Obligations.VectorRowsReadImage := by
  intro s hc
  obtain ⟨nmi, reset, irq⟩ := vectors_spell s.cfg hc
  obtain ⟨nmiLo, nmiHi⟩ := (entryValue_eq_iff _ _).mp nmi
  obtain ⟨resetLo, resetHi⟩ := (entryValue_eq_iff _ _).mp reset
  obtain ⟨irqLo, irqHi⟩ := (entryValue_eq_iff _ _).mp irq
  rw [← nmiLo, ← nmiHi, ← resetLo, ← resetHi, ← irqLo, ← irqHi]
  have vector : Target.vector = .vector ∨ Target.vector = .table := .inl rfl
  exact ⟨exec_read_image rfl vector rfl, exec_read_image rfl vector rfl,
    exec_read_image rfl vector rfl, exec_read_image rfl vector rfl,
    exec_read_image rfl vector rfl, exec_read_image rfl vector rfl⟩

/-- A byte of slot `k`, as the table's byte at that place. -/
theorem exec_read_slot {i : Instr} {s : State} {k : Nat} {hi : Bool} (hk : k < 7)
    (hexec : exec i s = (slotRead k hi s).toOut) :
    exec i s = .next (s.emit (.rd (s.cfg.tableBase + BitVec.ofNat 16 (2 * k + hi.toNat))
      ((tableBytes s.cfg).getD (2 * k + hi.toNat) 0))) := by
  rw [← tableByte_slotAddr s.cfg k hi hk]
  exact exec_read_image hexec (.inr rfl) rfl

/-- A byte of a slot that spells an entry, low byte first (30_encoding.md R74). -/
theorem exec_read_entry {i : Instr} {s : State} {k o : Nat} {hi : Bool} {e : Entry} {j : Addr}
    (hk : k < 7) (ho : 2 * k = o) (hexec : exec i s = (slotRead k hi s).toOut)
    (spells : entryValue e = j)
    (byte : (tableBytes s.cfg).getD (2 * k + hi.toNat) 0 = if hi then e.hi else e.lo) :
    exec i s = .next (s.emit (.rd (s.cfg.tableBase + BitVec.ofNat 16 (o + hi.toNat))
      (if hi then highByte j else lowByte j))) := by
  obtain ⟨lo, high⟩ := (entryValue_eq_iff e j).mp spells
  rw [exec_read_slot hk hexec, byte, lo, high, ho]

/-- Settles O47: the guard slot's byte is a constant of the table, and the others are entries by R10
(e). -/
theorem jumpTableRowsReadImage : Obligations.JumpTableRowsReadImage := by
  intro s hc _ _ hi
  obtain ⟨h1, h2, h3, h4, h5, h6⟩ := table_spells s.cfg hc
  have guard : ∀ t : State, exec (.addrJtSlot0 hi) t = .next (t.emit
      (.rd (t.cfg.tableBase + BitVec.ofNat 16 hi.toNat) ((tableBytes t.cfg).getD hi.toNat 0))) := by
    intro t
    have h := exec_read_slot (i := .addrJtSlot0 hi) (s := t) (k := 0) (by decide) rfl
    rwa [Nat.mul_zero, Nat.zero_add] at h
  refine ⟨⟨_, guard s, fun t ht => ht ▸ guard t⟩,
    exec_read_entry (k := 1) (by decide) rfl rfl h1 ?_,
    exec_read_entry (k := 2) (by decide) rfl rfl h2 ?_,
    exec_read_entry (k := 3) (by decide) rfl rfl h3 ?_,
    exec_read_entry (k := 4) (by decide) rfl rfl h4 ?_,
    exec_read_entry (k := 5) (by decide) rfl rfl h5 ?_,
    exec_read_entry (k := 6) (by decide) rfl rfl h6 ?_⟩
  all_goals (cases hi <;> rfl)

/-! ### A program's accesses -/

/-- A bus access raises no fault but that of the unwritten selector, before it writes anything:
there is nothing for a precise fault to undo (60_exceptions.md R131, R134). -/
theorem precise_busAccess (s : State) (t : Target) (a : Addr) (acc : Access) :
    precise s (busAccess s t a acc) = busAccess s t a acc := by
  cases acc with
  | read d =>
    rcases readThen_cases s t a d (fun _ s' => Flow.go s') with ⟨_, _, h⟩ | ⟨v, _, h⟩ <;>
      rw [busAccess, h] <;> rfl
  | write v =>
    rcases busWrite_cases s t a v with ⟨_, h⟩ | ⟨_, h⟩ | h | ⟨_, h⟩ <;> rw [busAccess, h] <;> rfl

theorem exec_idle_access {s : State} {op : ProgOp} {t : Target} {a : Addr} {acc : Access}
    (h : runOp s op = busAccess s t a acc) : exec (.idle [op]) s = (busAccess s t a acc).toOut := by
  have alone : ∀ f : Flow, f.andThen (runOps []) = f := fun f => by cases f <;> rfl
  have row : exec (.idle [op]) s = (precise s ((runOp s op).andThen (runOps []))).toOut := rfl
  rw [row, alone, h, precise_busAccess]

/-- Where the machine itself holds the value, the draw does not matter. -/
theorem busAccess_read_undrawn {t : Target} (ht : Undrawn t) (s : State) (a : Addr) (d : Byte) :
    busAccess s t a (.read d) = busAccess s t a (.read 0) := by
  rcases ht with rfl | rfl | rfl <;> rfl

/-- The operation of a bus code is the access of that code at what its address selects. -/
theorem exec_of_encode_bus {s : State} (hc : admitted s.cfg = true) {i : Instr} {a : Addr}
    {acc : Access} (hw : i.wf s.cfg = true) (h : encode s.cfg i = .bus a acc) :
    exec i s = (busAccess s (addrTarget s.cfg a) a acc).toOut := by
  have vector : ∀ {a}, inVectors a = true → addrTarget s.cfg a = .vector :=
    addrTarget_vector s.cfg _
  have slot : ∀ k < 7, ∀ hi, addrTarget s.cfg (slotAddr s.cfg k hi) = .table :=
    fun k hk hi => addrTarget_slotAddr s.cfg hc k hi hk
  have uart : ∀ {a}, a ∈ uartAddrs s.cfg → addrTarget s.cfg a = .uart :=
    addrTarget_uart s.cfg hc _
  cases i <;> cases h
  case addrBank0Read | addrBank0Write | addrIntLatch => rfl
  case addrVecNmi hi | addrVecReset hi | addrVecIrq hi =>
    obtain ⟨nmi, reset, irq⟩ := inVectors_vectorAddr hi
    rw [vector (by assumption)]
    rfl
  case addrJtSlot0 hi => rw [slot 0 (by decide) hi]; rfl
  case addrJtSlot1 hi => rw [slot 1 (by decide) hi]; rfl
  case addrJtSlot2 hi => rw [slot 2 (by decide) hi]; rfl
  case addrJtSlot3 hi => rw [slot 3 (by decide) hi]; rfl
  case addrJtSlot4 hi => rw [slot 4 (by decide) hi]; rfl
  case addrJtSlot5 hi => rw [slot 5 (by decide) hi]; rfl
  case addrJtSlot6 hi => rw [slot 6 (by decide) hi]; rfl
  case addrUartDataRead | addrUartDataWrite | addrUartStatus | addrUartCmd | addrUartCtrl =>
    rw [uart (by simp [uartAddrs])]
    rfl
  case addrWindow => rw [of_decide_eq_true hw]; rfl

/-- The access of a decoded bus code is the meaning of the row (30_encoding.md R70). -/
theorem exec_of_decodeBus {s : State} (hc : admitted s.cfg = true) {i : Instr} {a : Addr}
    {acc : Access} (h : decodeBus s.cfg a acc = .ok i) :
    exec i s = (busAccess s (addrTarget s.cfg a) a acc).toOut := by
  obtain ⟨wf, acc', code, same⟩ := coded_of_decodeBus hc h
  rw [exec_of_encode_bus hc wf code]
  rcases same with rfl | ⟨d, rfl, rfl, undrawn⟩
  · rfl
  · rw [busAccess_read_undrawn undrawn s a d]

/-- Settles O49: both sides are the access at what the address selects; in plain memory that is one
byte learnt or stored. -/
theorem programAccessRunsRow : Obligations.ProgramAccessRunsRow := by
  intro s a v hc
  have read : exec (.idle [.rd a v]) s = (busAccess s (addrTarget s.cfg a) a (.read v)).toOut :=
    exec_idle_access rfl
  have write : exec (.idle [.wr a v]) s = (busAccess s (addrTarget s.cfg a) a (.write v)).toOut :=
    exec_idle_access rfl
  refine ⟨fun i h => read.trans (exec_of_decodeBus hc h).symm,
    fun i h => write.trans (exec_of_decodeBus hc h).symm, fun hm => ?memory, fun himage => ?image⟩
  case memory =>
    rw [read, write, hm]
    refine ⟨⟨(s.learnByte (plainLoc a) v).mem, ?_, fun loc w => byteAt_learnByte s _ loc v w⟩,
      (s.storeByte (plainLoc a) v).mem, rfl, fun loc w => byteAt_storeByte s _ loc v w⟩
    rw [busAccess_read_of_loc v (loc := plainLoc a) rfl, toOut_go, learnByte_eq]
    rfl
  case image => rcases himage with h | h <;> rw [write, h] <;> rfl

end Sys2Proof.Proofs.EncodedRows

/-! PROOFS. The phase words that match no row, and the step event on them (30_encoding.md R66,
R75). -/

namespace Sys2Proof.Proofs.RefusedWords

open Sys2Proof Sys2Proof.Machine Sys2Proof.Proofs.MicroSteps Sys2Proof.Proofs.StepEvent

/-- R66's list of the words that match no row, the kernel-stack words apart. -/
def Unmatched (w : PhaseWord) : Prop :=
  (w.extractLsb' 0 4 = 0xA ∧ (w.extractLsb' 4 3 = 0 ∨ w.extractLsb' 4 3 = 7)) ∨
    (w.extractLsb' 0 4 = 0xA ∧ w.extractLsb' 4 3 ≠ 5 ∧ w.extractLsb' 7 2 ≠ 0) ∨
    (w.extractLsb' 0 4 ≠ 0xA ∧ w.extractLsb' 0 4 ≠ 0xF ∧ w.extractLsb' 4 5 ≠ 0) ∨
    (w.extractLsb' 0 4 = 0xF ∧
      (w.extractLsb' 8 1 = 1 ∨ w.extractLsb' 4 4 = 0 ∨ 5 ≤ w.extractLsb' 4 4))

theorem isPhaseRow_eq_false_iff : ∀ w : PhaseWord, isPhaseRow w = false ↔ Unmatched w := by
  unfold Unmatched
  decide

/-- The kernel-stack words (30_encoding.md R66). -/
def KernelStackWord (w : PhaseWord) : Prop := w = phEntKstackSwitch ∨ w = phRstKstackRestore

/-- What the step event refuses: a word of no row, or a kernel-stack word without KSTACK. -/
def StepRefused (s : State) : Prop :=
  isPhaseRow s.phase = false ∨ (KernelStackWord s.phase ∧ s.cfg.kstack = false)

theorem decodePhase_of_not_row {w : PhaseWord} (h : isPhaseRow w = false) (v : StepVals) :
    ∃ e, decodePhase w v = .error e := by
  cases hd : decodePhase w v with
  | error e => exact ⟨e, rfl⟩
  | ok i =>
    unfold decodePhase at hd
    split at hd <;> cases hd <;> cases h

theorem dispatchStep_of_stepRefused {s : State} (h : StepRefused s) (d : Draws) :
    ∃ r, dispatchStep d s = .refused r := by
  rcases h with row | ⟨hw | hw, hk⟩
  · obtain ⟨e, he⟩ := decodePhase_of_not_row row (stepVals d s)
    exact ⟨refusalOf e, by rw [dispatchStep, he]⟩
  · exact ⟨.kstackAbsent, by
      simp [dispatchStep, hw, decodePhase, phEntKstackSwitch, microStep, execEntKstackSwitch, hk]⟩
  · exact ⟨.kstackAbsent, by
      simp [dispatchStep, hw, decodePhase, phRstKstackRestore, microStep, execRstKstackRestore, hk]⟩

/-- With a frame, and outside IDLE and FAULT, a micro-step is refused for no other reason. -/
theorem dispatchStep_refused_iff {s : State} (hc : admitted s.cfg = true) (hr : Running s)
    (hf : s.frames ≠ []) (away : s.phase ≠ phIdle) (d : Draws) :
    (∃ r, dispatchStep d s = .refused r) ↔ StepRefused s := by
  refine ⟨fun ⟨r, h⟩ => ?_, fun h => dispatchStep_of_stepRefused h d⟩
  have blocked := answers_dispatchStep hc away d
  rw [h] at blocked
  rcases blocked with row | fault | frames | ⟨hk, hw⟩
  · exact .inl row
  · exact absurd hr.2 fault
  · exact absurd frames hf
  · exact .inr ⟨hw, hk⟩

theorem not_stepRefused_of_row {s : State} (row : isPhaseRow s.phase = true)
    (hw : ¬ KernelStackWord s.phase) : ¬ StepRefused s := by
  rintro (h | ⟨h, -⟩)
  · rw [row] at h
    cases h
  · exact hw h

theorem row_of_faultWord {w : PhaseWord} (h : faultOfWord w ≠ none) :
    isPhaseRow w = true ∧ ¬ KernelStackWord w := by
  have words : ∀ w : PhaseWord, faultOfWord w ≠ none →
      isPhaseRow w = true ∧ w ≠ phEntKstackSwitch ∧ w ≠ phRstKstackRestore := by decide
  obtain ⟨row, hn⟩ := words w h
  exact ⟨row, not_or.mpr hn⟩

/-- The single step event, in every phase: a FAULT word stops, IDLE does nothing, and elsewhere it
is the micro-step. -/
theorem exec_evStep_refused_iff {s : State} (hc : admitted s.cfg = true) (hn : s.fault = none)
    (hf : s.frames ≠ []) (d : Draws) :
    (∃ r, exec (.evStep .once d) s = .refused r) ↔ StepRefused s := by
  by_cases hw : faultOfWord s.phase = none
  · have hr : Running s := ⟨hn, hw⟩
    by_cases idle : s.phase = phIdle
    · have row := not_stepRefused_of_row (s := s) (by rw [idle]; rfl)
        (by rw [idle, KernelStackWord]; decide)
      simp [exec, execEvStep, stopped_of_running hr, idle, row]
    · rw [exec_evStep_once hr idle, dispatchStep_refused_iff hc hr hf idle]
  · obtain ⟨row, hk⟩ := row_of_faultWord hw
    obtain ⟨c, hs⟩ := Option.ne_none_iff_exists'.mp hw
    have stop : stopped s = some c := by rw [stopped, hn]; exact hs
    simp [exec, execEvStep, stop, not_stepRefused_of_row row hk]

/-- Settles O7: the event refuses what `StepRefused` says, and the words of no row are R66's list.
-/
theorem unmatchedPhaseWordsRefused : Obligations.UnmatchedPhaseWordsRefused := by
  intro s d hc hn hf
  rw [exec_evStep_refused_iff hc hn hf, StepRefused, isPhaseRow_eq_false_iff]
  have reorder : ∀ A B C D K : Prop, (A ∨ B ∨ C ∨ D) ∨ K ↔ A ∨ B ∨ C ∨ K ∨ D := by tauto
  exact reorder _ _ _ _ _

end Sys2Proof.Proofs.RefusedWords

/-! PROOFS. The operations of a program step one after the other (30_encoding.md R78), and what a
fault in one of them leaves of the step (60_exceptions.md R131). -/

namespace Sys2Proof.Proofs.ProgramOrder

open Sys2Proof Sys2Proof.Machine

theorem runOps_append (xs ys : List ProgOp) (s : State) :
    runOps (xs ++ ys) s = (runOps xs s).andThen (runOps ys) := by
  induction xs generalizing s with
  | nil => rfl
  | cons op rest ih =>
    have first : ∀ f : Flow, f.andThen (runOps (rest ++ ys)) =
        (f.andThen (runOps rest)).andThen (runOps ys) := by
      intro f
      cases f with
      | go t => exact ih t
      | raised t => rfl
      | refused r => rfl
    exact first (runOp s op)

/-- What a fault leaves of the state `s` the step started in, `t` being where it was raised. -/
def undone (s t : State) : State :=
  { s with history := t.history, fault := t.fault, phase := t.phase, spins := t.spins }

/-- What a program step that answers a state can have done, from a state with no fault: its
operations all went on, or one of them raised a fault. -/
theorem exec_idle_cases {ops : List ProgOp} {s t : State} (hf : s.fault = none)
    (h : exec (.idle ops) s = .next t) :
    (runOps ops s = .go t ∧ t.fault = none) ∨
      ∃ u c, runOps ops s = .raised u ∧ t = undone s u ∧ u.fault = some c ∧
        u.phase = faultWord c ∧ ∃ es, u.history = s.history ++ es := by
  have keeps := keeps_runOps ops s
  have step : (precise s (runOps ops s)).toOut = .next t := h
  cases hr : runOps ops s with
  | go u =>
    rw [hr] at step keeps
    cases step
    obtain ⟨-, -, hfault⟩ := keeps
    exact .inl ⟨rfl, hfault.trans hf⟩
  | raised u =>
    rw [hr] at step keeps
    cases step
    obtain ⟨k, c, hc, hp⟩ := keeps
    obtain ⟨es, he, -⟩ := k.history
    exact .inr ⟨u, c, rfl, rfl, hc, hp, es, he⟩
  | refused r => rw [hr] at step; cases step

theorem exec_idle_refused {ops : List ProgOp} {s : State} {r : Refusal}
    (h : exec (.idle ops) s = .refused r) : runOps ops s = .refused r := by
  have step : (precise s (runOps ops s)).toOut = .refused r := h
  cases hr : runOps ops s <;> rw [hr] at step <;> cases step
  rfl

theorem exec_idle_append (xs ys : List ProgOp) (s : State) : exec (.idle (xs ++ ys)) s =
    (precise s ((runOps xs s).andThen (runOps ys))).toOut := by
  rw [← runOps_append]
  rfl

/-- Settles O9: the first operations raised a fault, and the others do not run; or they went on, and
the whole step ends as the others do from there. -/
theorem programOpsRunInOrder : Obligations.ProgramOpsRunInOrder := by
  intro xs ys s t hf h
  rw [exec_idle_append]
  rcases exec_idle_cases hf h with ⟨hx, ht⟩ | ⟨w, c, hx, rfl, hc, hp, es, he⟩
  case inr =>
    refine ⟨fun _ => ⟨by rw [hx]; rfl, es, c, w.spins, ?_⟩, fun clean => ?_⟩
    · rw [undone, hc, hp, he]
    · exact absurd (hc.symm.trans clean) (by simp)
  case inl =>
    refine ⟨fun faulted => absurd ht faulted, fun _ => ⟨fun u hu clean => ?_,
      fun u hu faulted => ?_, fun r hr => ?_⟩⟩ <;> rw [hx, andThen_go]
    · rcases exec_idle_cases ht hu with ⟨hy, -⟩ | ⟨v, c, -, rfl, hc, -⟩
      · rw [hy]; rfl
      · exact absurd (hc.symm.trans clean) (by simp)
    · rcases exec_idle_cases ht hu with ⟨-, hfault⟩ | ⟨v, c, hy, rfl, -⟩
      · exact absurd hfault faulted
      · rw [hy]; rfl
    · rw [exec_idle_refused hr]; rfl

end Sys2Proof.Proofs.ProgramOrder

/-! PROOFS. Repeated step events: `run` and `activation` as the single step with the rest of the
repetition put back at the script's head (30_encoding.md R78, R79; log 20). -/

namespace Sys2Proof.Proofs.Repetition

open Sys2Proof Sys2Proof.Machine Sys2Proof.Proofs.StepEvent

theorem irqEnabled_iff (s : State) : irqEnabled s = true ↔ s.imask = false ∧
    (s.phase = phIdle ∨ (isHandler s.phase = true ∧ s.cfg.nestEnable = true)) := by
  simp [irqEnabled]

/-- Below MAX_DEPTH an enabled IRQ begins an activation, as event 2 and as `activation` (R79). -/
theorem exec_irq_accepted {s : State} (hr : Running s) (he : irqEnabled s = true)
    (depth : s.frames.length ≠ s.cfg.maxDepth) (d : Draws) :
    exec .evIrq s = .next (acceptInterrupt s .irq (returnPosition s) false) ∧
      exec (.pseudoActivation d) s =
        .next { acceptInterrupt s .irq (returnPosition s) false with
          script := .event 5 { mode := .activation, draws := d } :: s.script } := by
  have accepted : irqFlow s = .go (acceptInterrupt s .irq (returnPosition s) false) :=
    if_neg depth
  simp [exec, execEvIrq, execPseudoActivation, stopped_of_running hr, he, accepted]

theorem stopped_isSome_iff (s : State) : (stopped s).isSome = true ↔ ¬ Running s := by
  rw [Option.isSome_iff_ne_none, ne_eq, stopped_eq_none_iff, Running]

/-- A step of a repetition is the single step, with the rest put back by `requeue`. -/
theorem exec_evStep_repeated {s t : State} {mode : StepMode} {d : Draws} (hm : mode ≠ .once)
    (hr : Running s) (away : s.phase ≠ phIdle) (ht : exec (.evStep .once d) s = .next t)
    (supplied : ¬ (mode = .run ∧ drawMissing d s.phase = true)) :
    exec (.evStep mode d) s = .next (requeue mode d s.phase t) := by
  rw [exec_evStep_once hr away] at ht
  have away' : ¬ s.phase = phIdle := away
  cases mode with
  | once => exact absurd rfl hm
  | run =>
    have held : ¬ drawMissing d s.phase = true := fun h => supplied ⟨rfl, h⟩
    simp only [exec, execEvStep, stopped_of_running hr, if_neg away', if_neg held, ht]
  | activation => simp only [exec, execEvStep, stopped_of_running hr, if_neg away', ht]

/-- A `run` whose next step needs a draw it does not hold is over (R78). -/
theorem exec_evStep_run_missing {s : State} {d : Draws} (hr : Running s) (away : s.phase ≠ phIdle)
    (missing : drawMissing d s.phase = true) : exec (.evStep .run d) s = .next s := by
  have away' : ¬ s.phase = phIdle := away
  simp only [exec, execEvStep, stopped_of_running hr, if_neg away', if_pos missing]

theorem requeue_of_stop {mode : StepMode} {d : Draws} {w : PhaseWord} {t : State}
    (h : w = phRstRti ∨ t.phase = phIdle ∨ ¬ Running t) : requeue mode d w t = t := by
  rw [← stopped_isSome_iff] at h
  simp [requeue, or_assoc, h]

theorem requeue_of_go_on {mode : StepMode} {d : Draws} {w : PhaseWord} {t : State}
    (h : ¬ (w = phRstRti ∨ t.phase = phIdle ∨ ¬ Running t)) : requeue mode d w t =
      { t with script := .event 5 { mode := mode, draws := drawsAfter d w } :: t.script } := by
  rw [← stopped_isSome_iff] at h
  simp [requeue, or_assoc, h]

/-- Settles O43: acceptance queues the activation's steps; a repetition stops or goes on by the two
cases of `requeue`. -/
theorem runAndActivationRepeatSteps : Obligations.RunAndActivationRepeatSteps := by
  refine ⟨fun s d hr hmask hphase depth => ?_,
    fun s t d mode hm hr away ht => ⟨?_, fun supplied => ?_⟩⟩
  · obtain ⟨irq, activation⟩ :=
      exec_irq_accepted hr ((irqEnabled_iff s).mpr ⟨hmask, hphase⟩) depth d
    exact ⟨_, irq, rfl, rfl, activation⟩
  · rintro ⟨rfl, missing⟩
    exact exec_evStep_run_missing hr away missing
  · rw [exec_evStep_repeated hm hr away ht supplied]
    refine ⟨fun stop => by rw [requeue_of_stop stop], fun h1 h2 h3 => ?_⟩
    rw [requeue_of_go_on (not_or.mpr ⟨h1, not_or.mpr ⟨h2, not_not.mpr h3⟩⟩)]

end Sys2Proof.Proofs.Repetition

/-! PROOFS. A `withBank0` from its first read to its last write (41_bankswitch.md R91, R92), with
NMIs at any places between its steps (R95). -/

namespace Sys2Proof.Proofs.WithBank0

open Sys2Proof Sys2Proof.Machine Sys2Proof.Proofs.Effects Sys2Proof.Proofs.Admission
  Sys2Proof.Proofs.StepEvent Sys2Proof.Proofs.ProgramSteps Sys2Proof.Proofs.LinesAndReset
  Sys2Proof.Proofs.Restoration

/-! ### Sequences of program steps -/

theorem wf_seqThen (cfg : Cfg) (p q : ProgSeq) :
    (seqThen p q).wf cfg = true ↔ p.wf cfg = true ∧ q.wf cfg = true := by
  induction p with
  | done => simp [ProgSeq.wf]
  | step ops rest ih => simp [ProgSeq.wf, ih, and_assoc]
  | withBank0 action rest _ ih => simp [ProgSeq.wf, ih, and_assoc]

theorem seqLength_seqThen (p q : ProgSeq) :
    seqLength (seqThen p q) = seqLength p + seqLength q := by
  induction p with
  | done => simp [seqLength]
  | step ops rest ih => simp only [seqThen_step, seqLength, ih]; omega
  | withBank0 action rest _ ih => simp only [seqThen_withBank0, seqLength, ih]; omega

theorem eq_done_of_seqLength {q : ProgSeq} (h : seqLength q = 0) : q = .done := by
  cases q with
  | done => rfl
  | step ops rest => simp [seqLength] at h
  | withBank0 action rest => simp [seqLength] at h

/-- The first read of a `withBank0` on the unwritten selector (60_exceptions.md R134). -/
theorem seqStep_withBank0_unwritten {s : State} (action rest : ProgSeq) (h : s.bank0 = none) :
    seqStep (.withBank0 action rest) s = .raised (raise s .bankUnwritten 0xF000) := by
  have hv : readValue s .bank0 bank0Addr 0 = none := h
  rw [seqStep, beginWithBank0, bankSwitchRead, readThen_unwritten _ hv]

theorem seqStep_ne_refused {q : ProgSeq} {s : State} (hw : q.wf s.cfg = true) (r : Refusal) :
    seqStep q s ≠ .refused r := by
  cases q with
  | done => simp [seqStep]
  | step ops rest =>
    simp only [ProgSeq.wf, Bool.and_eq_true] at hw
    obtain ⟨hops, -⟩ := hw
    rw [seqStep]
    cases hr : runOps ops { s with pending := rest } with
    | refused r' => exact absurd hr (runOps_ne_refused (s := { s with pending := rest }) hops r')
    | _ => simp
  | withBank0 action rest =>
    cases hb : s.bank0 with
    | some b => simp [seqStep_withBank0 s b action rest hb]
    | none => simp [seqStep_withBank0_unwritten action rest hb]

/-- The steps still to come after the first step of `q` and before those of `fin`: one fewer than
`q` has, and as well formed. -/
theorem pending_of_seqStep {q fin : ProgSeq} {s t : State} (hq : q ≠ .done)
    (hw : q.wf s.cfg = true) (h : seqStep (seqThen q fin) s = .go t) :
    ∃ q', t.pending = seqThen q' fin ∧ q'.wf s.cfg = true ∧ seqLength q = seqLength q' + 1 := by
  cases q with
  | done => exact absurd rfl hq
  | step ops rest =>
    simp only [ProgSeq.wf, Bool.and_eq_true] at hw
    obtain ⟨-, hrest⟩ := hw
    have keeps := keeps_runOps ops { s with pending := seqThen rest fin }
    rw [seqThen_step, seqStep] at h
    cases hr : runOps ops { s with pending := seqThen rest fin } <;> rw [hr] at h keeps <;> cases h
    exact ⟨rest, keeps.1.pending, hrest, rfl⟩
  | withBank0 action rest =>
    simp only [ProgSeq.wf, Bool.and_eq_true] at hw
    obtain ⟨haction, hrest⟩ := hw
    rw [seqThen_withBank0] at h
    cases hb : s.bank0 with
    | none =>
      rw [seqStep_withBank0_unwritten _ _ hb] at h
      cases h
    | some b =>
      rw [seqStep_withBank0 s b _ _ hb] at h
      cases h
      refine ⟨.step [.bankWr 0x00] (seqThen action (.step [.bankWr b] rest)), ?_, ?_, ?_⟩
      · simp [seqThen_assoc]
      · simp [ProgSeq.wf, wf_seqThen, haction, hrest, opsWf, ProgOp.wf]
      · simp only [seqLength, seqLength_seqThen]
        omega

/-! ### Lines: NMIs between the program's steps -/

/-- Lines that are NMIs and `n` empty `prog` lines, a `prog` line last. -/
inductive Schedule : List Line → Nat → Prop
  | last : Schedule [.event 0 {}] 1
  | nmi {ls n} : Schedule ls n → Schedule (.event 4 {} :: ls) n
  | prog {ls n} : Schedule ls n → Schedule (.event 0 {} :: ls) (n + 1)

theorem schedule_of_lines {ls : List Line} (lines : ∀ l ∈ ls, l = .event 4 {} ∨ l = .event 0 {})
    (last : ls.getLast? = some (.event 0 {})) : Schedule ls (ls.count (.event 0 {})) := by
  induction ls with
  | nil => cases last
  | cons l ls ih =>
    cases ls with
    | nil => cases last; exact .last
    | cons l' ls' =>
      rw [List.getLast?_cons_cons] at last
      have rest := ih (fun k hk => lines k (List.mem_cons_of_mem l hk)) last
      rcases lines l List.mem_cons_self with rfl | rfl
      · rw [List.count_cons_of_ne (by simp)]
        exact .nmi rest
      · rw [List.count_cons_self]
        exact .prog rest

theorem Schedule.pos {ls : List Line} {n : Nat} (h : Schedule ls n) : 0 < n ∧ 0 < ls.length := by
  induction h with
  | last => decide
  | nmi _ ih => exact ⟨ih.1, Nat.succ_pos _⟩
  | prog _ _ => exact ⟨Nat.succ_pos _, Nat.succ_pos _⟩

/-! ### One step of the run -/

/-- The events of an NMI (60_exceptions.md R137). -/
def nmiEvents (cfg : Cfg) : List Event :=
  [.nmi, .rd 0xFFFA (lowByte cfg.nmiEntry), .rd 0xFFFB (highByte cfg.nmiEntry)]

/-- The program at IDLE under `cfg`, with the steps of `seq` pending and the lines `ls` to come. -/
structure Between (cfg : Cfg) (seq : ProgSeq) (ls : List Line) (v : State) : Prop where
  cfg_eq : v.cfg = cfg
  idle : AtIdle v
  pending : v.pending = seq
  script : v.script = ls

/-- `t` is a state after `v` with the frames as they were and the events `es` recorded. -/
structure After (v : State) (es : List Event) (t : State) : Prop where
  frames : t.frames = v.frames
  history : t.history = v.history ++ es

/-- `v` with its first line taken. -/
def taken (v : State) (ls : List Line) : State :=
  { v with script := ls, drawCount := v.drawCount + 1 }

section
variable {cfg : Cfg} (hc : admitted cfg = true) {seq : ProgSeq} {ls : List Line} {v : State}
include hc

theorem step_of_line {l : Line} {i : Instr} (hv : v.cfg = cfg) (script : v.script = l :: ls)
    (hl : decodeLine l = .ok i) : step v = exec i (taken v ls) := by
  have next := nextLine_cons script
  have h : decodeLine (nextLine v).1 = .ok i := by rw [next]; exact hl
  rw [step_of_decodeLine (hv ▸ hc) h, next]
  rfl

theorem exec_evNmi_running (hv : v.cfg = cfg) (hr : Running v) :
    exec .evNmi v = .next { v with history := v.history ++ nmiEvents cfg } := by
  obtain ⟨spells, -⟩ := vectors_spell cfg hc
  obtain ⟨lo, hi⟩ := (entryValue_eq_iff cfg.vec.nmi cfg.nmiEntry).mp spells
  have events : v.history ++ nmiEvents cfg = v.history ++ [Event.nmi] ++
      [Event.rd 0xFFFA v.cfg.vec.nmi.lo] ++ [Event.rd 0xFFFB v.cfg.vec.nmi.hi] := by
    simp only [nmiEvents, hv, lo, hi, List.append_assoc, List.cons_append, List.nil_append]
  simp only [exec, execEvNmi, stopped_of_running hr, events]
  rfl

theorem step_nmi (hv : Between cfg seq (.event 4 {} :: ls) v) :
    ∃ t, step v = .next t ∧ Between cfg seq ls t ∧ After v (nmiEvents cfg) t := by
  obtain ⟨hcfg, ⟨clean, idle⟩, pending, script⟩ := hv
  have hr : Running (taken v ls) := running_of_atIdle ⟨clean, idle⟩
  exact ⟨_, (step_of_line hc hcfg script rfl).trans (exec_evNmi_running hc hcfg hr),
    ⟨hcfg, ⟨clean, idle⟩, pending, rfl⟩, rfl, rfl⟩

/-- An empty `prog` line takes the first pending step (log 19). -/
theorem step_prog (hv : Between cfg seq (.event 0 {} :: ls) v) (waiting : seq ≠ .done) :
    step v = (seqStep seq (taken v ls)).toOut := by
  obtain ⟨hcfg, idle, rfl, script⟩ := hv
  rw [step_of_line hc hcfg script rfl]
  exact programStep_pending (s := taken v ls) idle waiting [] (opsStep [])

theorem step_bankWr {b : Byte} (hv : Between cfg (.step [.bankWr b] seq) (.event 0 {} :: ls) v) :
    ∃ t, step v = .next t ∧ Between cfg seq ls t ∧ After v [.wr 0xF000 b] t ∧ t.bank0 = some b := by
  refine ⟨_, (step_prog hc hv (by simp)).trans (congrArg Flow.toOut (seqStep_bankWr _ _ _)), ?_,
    ⟨rfl, rfl⟩, rfl⟩
  exact ⟨hv.cfg_eq, hv.idle, rfl, rfl⟩

/-- One step of the sequence `q` before `fin`: it raises a fault, or goes on with one step fewer. -/
theorem step_seq {q fin : ProgSeq} (hq : q ≠ .done) (hw : q.wf cfg = true)
    (hfin : fin.wf cfg = true) (hv : Between cfg (seqThen q fin) (.event 0 {} :: ls) v) :
    ∃ t, step v = .next t ∧ ((∃ c, t.fault = some c) ∨
      ∃ q' es, Between cfg (seqThen q' fin) ls t ∧ After v es t ∧ q'.wf cfg = true ∧
        seqLength q = seqLength q' + 1) := by
  have waiting : seqThen q fin ≠ .done := by cases q <;> simp_all
  have hw' : q.wf (taken v ls).cfg = true := hv.cfg_eq.symm ▸ hw
  rw [step_prog hc hv waiting]
  have keeps := keeps_seqStep (seqThen q fin) (taken v ls)
  cases hs : seqStep (seqThen q fin) (taken v ls) with
  | go t =>
    rw [hs] at keeps
    obtain ⟨k, phase, fault⟩ := keeps
    obtain ⟨q', pending, wf, length⟩ := pending_of_seqStep hq hw' hs
    obtain ⟨es, history, -⟩ := k.history
    exact ⟨t, rfl, .inr ⟨q', es, ⟨k.cfg.trans hv.cfg_eq,
      ⟨fault.trans hv.idle.1, phase.trans hv.idle.2⟩, pending, k.script⟩, ⟨k.frames, history⟩,
      hv.cfg_eq ▸ wf, length⟩⟩
  | raised t =>
    rw [hs] at keeps
    obtain ⟨-, c, fault, -⟩ := keeps
    exact ⟨t, rfl, .inl ⟨c, fault⟩⟩
  | refused r =>
    have wf : (seqThen q fin).wf (taken v ls).cfg = true :=
      (wf_seqThen _ q fin).mpr ⟨hw', hv.cfg_eq.symm ▸ hfin⟩
    exact absurd hs (seqStep_ne_refused wf r)

end

/-! ### The run -/

/-- A run of `k` steps from `v` stops in a fault before its last step, or ends at IDLE with nothing
pending and the frames as they were, the restoring write of `b` last and events `es` of which `P`
holds before it. -/
def RunsTo (b : Byte) (rest : List Line) (v : State) (k : Nat) (P : List Event → Prop) : Prop :=
  (∃ n u c, n < k ∧ core.run n v = .next u ∧ u.fault = some c) ∨
    ∃ u es, core.run k v = .next u ∧ u.bank0 = some b ∧ u.pending = .done ∧ AtIdle u ∧
      u.script = rest ∧ After v (es ++ [.wr 0xF000 b]) u ∧ P es

section
variable {b : Byte} {rest : List Line} {v t : State} {k : Nat}

theorem runsTo_of_fault {P : List Event → Prop} {c : Fault} (h : step v = .next t)
    (fault : t.fault = some c) (hk : 0 < k) : RunsTo b rest v (k + 1) P :=
  .inl ⟨1, t, c, by omega, run_succ h, fault⟩

theorem RunsTo.cons {P Q : List Event → Prop} {es : List Event} (h : step v = .next t)
    (after : After v es t) (hQ : ∀ es', P es' → Q (es ++ es')) (ht : RunsTo b rest t k P) :
    RunsTo b rest v (k + 1) Q := by
  rcases ht with ⟨n, u, c, hn, run, fault⟩ | ⟨u, es', run, bank, pending, idle, script, hu, hP⟩
  · exact .inl ⟨n + 1, u, c, by omega, (run_succ h).trans run, fault⟩
  · refine .inr ⟨u, es ++ es', (run_succ h).trans run, bank, pending, idle, script,
      ⟨hu.frames.trans after.frames, ?_⟩, hQ es' hP⟩
    rw [hu.history, after.history]
    simp only [List.append_assoc]

end

section
variable {cfg : Cfg} (hc : admitted cfg = true) {b : Byte} {rest ls : List Line} {n : Nat}
include hc

/-- The action's steps and the restoring write, by induction on the lines. -/
theorem runsTo_of_action (hs : Schedule ls n) {q : ProgSeq} {v : State}
    (hv : Between cfg (seqThen q (.step [.bankWr b] .done)) (ls ++ rest) v)
    (hw : q.wf cfg = true) (hn : n = seqLength q + 1) :
    RunsTo b rest v ls.length fun _ => True := by
  induction hs generalizing q v with
  | last =>
    obtain rfl := eq_done_of_seqLength (q := q) (by omega)
    obtain ⟨t, ht, ⟨-, idle, pending, script⟩, after, bank⟩ := step_bankWr hc hv
    exact .inr ⟨t, [], run_succ ht, bank, pending, idle, script, after, trivial⟩
  | nmi _ ih =>
    obtain ⟨t, ht, between, after⟩ := step_nmi hc hv
    exact (ih between hw hn).cons ht after fun _ _ => trivial
  | prog tail ih =>
    have hq : q ≠ .done := by
      rintro rfl
      have := tail.pos
      simp only [seqLength] at hn
      omega
    obtain ⟨t, ht, ⟨c, fault⟩ | ⟨q', es, between, after, wf, length⟩⟩ :=
      step_seq hc hq hw (by simp [ProgSeq.wf, opsWf, ProgOp.wf]) hv
    · exact runsTo_of_fault ht fault tail.pos.2
    · exact (ih between wf (by omega)).cons ht after fun _ _ => trivial

/-- The first event of `es` that is no NMI's is the write of 0 (41_bankswitch.md R91). -/
def ForcesFirst (cfg : Cfg) (es : List Event) : Prop :=
  (es.filter fun e => !(nmiEvents cfg).contains e).head? = some (.wr 0xF000 0x00)

/-- All steps after the first read: NMIs, the write of 0, and the rest by `runsTo_of_action`. -/
theorem runsTo_of_begun (hs : Schedule ls n) {action : ProgSeq} {v : State}
    (hv : Between cfg (.step [.bankWr 0x00] (seqThen action (.step [.bankWr b] .done)))
      (ls ++ rest) v)
    (hw : action.wf cfg = true) (hn : n = seqLength action + 2) :
    RunsTo b rest v ls.length (ForcesFirst cfg) := by
  induction hs generalizing v with
  | last => omega
  | nmi _ ih =>
    obtain ⟨t, ht, between, after⟩ := step_nmi hc hv
    refine (ih between hn).cons ht after fun es hes => ?_
    have own : ((nmiEvents cfg).filter fun e => !(nmiEvents cfg).contains e) = [] := by simp
    rwa [ForcesFirst, List.filter_append, own, List.nil_append]
  | prog tail _ =>
    obtain ⟨t, ht, between, after, -⟩ := step_bankWr hc hv
    refine (runsTo_of_action hc tail between hw (by omega)).cons ht after fun es _ => ?_
    simp [ForcesFirst, nmiEvents]

end

/-! ### The pseudo-operation -/

/-- `s` after the first step of `withBank0(action)`, which read `b` (41_bankswitch.md R91). -/
def begun (s : State) (b : Byte) (action : ProgSeq) : State :=
  { s with
    history := s.history ++ [.rd 0xF000 b],
    pending := .step [.bankWr 0x00] (seqThen action (.step [.bankWr b] .done)) }

theorem exec_withBank0_written {s : State} {b : Byte} (h : AtIdle s) (done : s.pending = .done)
    (hb : s.bank0 = some b) (action : ProgSeq) :
    exec (.pseudoWithBank0 action) s = .next (begun s b action) := by
  rw [exec_pseudoWithBank0, programStep_own h done, seqStep_withBank0 s b action .done hb, toOut_go]
  rfl

theorem exec_withBank0_unwritten {s : State} (h : AtIdle s) (done : s.pending = .done)
    (hb : s.bank0 = none) (action : ProgSeq) : exec (.pseudoWithBank0 action) s =
      .next (raise s .bankUnwritten 0xF000) := by
  rw [exec_pseudoWithBank0, programStep_own h done, seqStep_withBank0_unwritten action .done hb,
    toOut_raised]

/-- Settles O13: the first step by definition of `withBank0`, the others by `runsTo_of_begun`. -/
theorem withBank0RestoresSelector : Obligations.WithBank0RestoresSelector := by
  refine ⟨fun s action h done => ⟨fun b hb => exec_withBank0_written h done hb action,
    fun hb => exec_withBank0_unwritten h done hb action⟩, ?_⟩
  intro s b action ls rest hc h done hb hw lines count last script events
  have first : step s = .next (begun (taken s (ls ++ rest)) b action) :=
    (step_of_line hc rfl script rfl).trans
      (exec_withBank0_written (s := taken s (ls ++ rest)) h done hb action)
  have between : Between s.cfg _ (ls ++ rest) (begun (taken s (ls ++ rest)) b action) :=
    ⟨rfl, h, rfl, rfl⟩
  have schedule := schedule_of_lines lines last
  rw [count] at schedule
  rcases runsTo_of_begun hc schedule between hw rfl with
    ⟨n, u, c, hn, run, fault⟩ | ⟨u, es, run, bank, pending, idle, script', after, forced⟩
  · exact .inl ⟨n + 1, u, c, hn, (run_succ first).trans run, fault⟩
  · refine .inr ⟨u, es, (run_succ first).trans run, bank, pending, idle.2, idle.1, after.frames,
      script', ?_, forced⟩
    rw [after.history, List.append_assoc, List.append_assoc]
    exact List.append_assoc _ _ _

end Sys2Proof.Proofs.WithBank0

/-! PROOFS. The program's SerialIO waits (40_serialio.md R82 to R84, R87) and the polled echo loop made
of them (40_serialio.md R88): each line of the loop runs on its own from IDLE, and lines that do run
one after the other. -/

namespace Sys2Proof.Proofs.SerialIO

open Sys2Proof Sys2Proof.Machine Sys2Proof.Proofs.ProgramSteps Sys2Proof.Proofs.Restoration

/-! ### One poll -/

/-- The polls a program's waits are made of, each with the status test that ends its wait. -/
inductive Poll : (Byte → ProgOp) → (Byte → Bool) → Prop
  | rx : Poll .pollRx rxFull
  | tx : Poll .pollTx txEmpty

/-- The record of a status read (40_serialio.md R82). -/
def statusRead (cfg : Cfg) (v : Byte) : Event := .rd (cfg.uartBase + 1) v

theorem runOp_poll {poll : Byte → ProgOp} {ready : Byte → Bool} (h : Poll poll ready) (s : State)
    (v : Byte) : runOp s (poll v) = pollStatus s v ready id id := by
  cases h <;> rfl

theorem spinCheck_unlimited {s : State} (h : s.cfg.maxSpins = none) (v : Byte) :
    spinCheck s v = .go s := by
  simp only [spinCheck, h]

theorem spinCheck_below {s : State} {n : Nat} (h : s.cfg.maxSpins = some n) (below : s.spins + 1 < n)
    (v : Byte) : spinCheck s v = .go { s with spins := s.spins + 1 } := by
  simp only [spinCheck, h, if_neg (Nat.not_le.mpr below)]

theorem spinCheck_reached {s : State} {n : Nat} (h : s.cfg.maxSpins = some n)
    (reached : n ≤ s.spins + 1) (v : Byte) :
    spinCheck s v = .raised (raise { s with spins := s.spins + 1 } .spinLimit v.toNat) := by
  simp only [spinCheck, h, if_pos reached]

section
variable {s : State} (hc : admitted s.cfg = true) {poll : Byte → ProgOp} {ready : Byte → Bool}
  (hp : Poll poll ready) {v : Byte}
include hc hp

theorem runOp_poll_ready (h : ready v = true) :
    runOp s (poll v) = .go (s.emit (statusRead s.cfg v)) := by
  rw [runOp_poll hp, pollStatus_eq hc, if_pos h]
  rfl

theorem runOp_poll_unready (h : ready v = false) :
    runOp s (poll v) = spinCheck (s.emit (statusRead s.cfg v)) v := by
  have unready : ¬ ready v = true := by simp [h]
  have alone : ∀ f : Flow, (f.andThen fun t => .go t) = f := fun f => by cases f <;> rfl
  rw [runOp_poll hp, pollStatus_eq hc, if_neg unready]
  exact alone _

/-- Without a limit a poll records its status, ready or not, and that is all. -/
theorem runOp_poll_unlimited (unlimited : s.cfg.maxSpins = none) :
    runOp s (poll v) = .go (s.emit (statusRead s.cfg v)) := by
  cases h : ready v with
  | true => exact runOp_poll_ready hc hp h
  | false =>
    rw [runOp_poll_unready hc hp h]
    exact spinCheck_unlimited (s := s.emit (statusRead s.cfg v)) unlimited v

/-- At the limit the whole step is the precise fault, the count standing (40_serialio.md R87). -/
theorem exec_poll_reached {n : Nat} (h : ready v = false) (limit : s.cfg.maxSpins = some n)
    (reached : n ≤ s.spins + 1) : exec (.idle [poll v]) s =
      .next (raise { s.emit (statusRead s.cfg v) with spins := s.spins + 1 } .spinLimit v.toNat) := by
  have raised := runOp_poll_unready hc hp h
  rw [spinCheck_reached (s := s.emit (statusRead s.cfg v)) limit reached] at raised
  simp only [exec, execIdle, opsStep, runOps, raised]
  rfl

end

theorem startWait_unlimited {s : State} (h : s.cfg.maxSpins = none) : startWait s = s := by
  simp only [startWait, if_pos h]

theorem startWait_limited {s : State} (h : s.cfg.maxSpins ≠ none) :
    startWait s = { s with spins := 0 } := by
  simp only [startWait, if_neg h]

theorem rxFull_eq_false_iff (v : Byte) : rxFull v = false ↔ v &&& 0x08 = 0 := by
  simp [rxFull]

theorem txEmpty_eq_false_iff (v : Byte) : txEmpty v = false ↔ v &&& 0x10 = 0 := by
  simp [txEmpty]

/-- The mask of a poll, as the test its wait makes (30_encoding.md R71). -/
theorem exists_poll_of_mask {op : ProgOp} {v mask : Byte}
    (h : (op = .pollRx v ∧ mask = 0x08) ∨ (op = .pollTx v ∧ mask = 0x10)) :
    ∃ poll ready, Poll poll ready ∧ op = poll v ∧ (ready v = false ↔ v &&& mask = 0) := by
  rcases h with ⟨rfl, rfl⟩ | ⟨rfl, rfl⟩
  · exact ⟨_, _, .rx, rfl, rxFull_eq_false_iff v⟩
  · exact ⟨_, _, .tx, rfl, txEmpty_eq_false_iff v⟩

/-- Settles O12: the start of a wait by `startWait`, a poll by the three cases of `spin_check`. -/
theorem programPollsStatus : Obligations.ProgramPollsStatus := by
  intro s v hc op mask hop h
  obtain ⟨poll, ready, hp, rfl, unready⟩ := exists_poll_of_mask hop
  refine ⟨fun unlimited => exec_idle_single ?_, fun limited => exec_idle_single ?_,
    fun set => exec_idle_single ?_, fun _ unlimited => exec_idle_single ?_,
    fun clear n limit below => exec_idle_single ?_, fun clear n limit reached => ?_⟩
  · rw [runOp, startWait_unlimited unlimited]
  · rw [runOp, startWait_limited limited]
  · rw [ne_eq, ← unready, Bool.not_eq_false] at set
    exact runOp_poll_ready hc hp set
  · exact runOp_poll_unlimited hc hp unlimited
  · rw [runOp_poll_unready hc hp (unready.mpr clear)]
    exact spinCheck_below (s := s.emit (statusRead s.cfg v)) limit below v
  · exact ⟨s.spins + 1, exec_poll_reached hc hp (unready.mpr clear) limit reached⟩

/-! ### Lines that record events and do nothing else -/

/-- `s` with `n` lines taken, `rest` to come, and the events `es` recorded. -/
def played (s : State) (n : Nat) (rest : List Line) (es : List Event) : State :=
  { s with script := rest, drawCount := s.drawCount + n, history := s.history ++ es }

/-- From IDLE under `cfg` with nothing pending, the lines `ls` record the events `es`, and nothing else
changes. -/
def Plays (cfg : Cfg) (ls : List Line) (es : List Event) : Prop :=
  ∀ (s : State) (rest : List Line), s.cfg = cfg → AtIdle s → s.pending = .done →
    s.script = ls ++ rest → core.run ls.length s = .next (played s ls.length rest es)

theorem run_add {m n : Nat} {s t : State} (h : core.run m s = .next t) :
    core.run (m + n) s = core.run n t := by
  induction m generalizing s with
  | zero => cases h; rw [Nat.zero_add]
  | succ m ih =>
    obtain ⟨u, first, after⟩ := exists_step_of_run_succ h
    rw [Nat.succ_add, run_succ first, ih after]

theorem Plays.nil (cfg : Cfg) : Plays cfg [] [] := by
  intro s rest _ _ _ script
  rw [List.nil_append] at script
  subst script
  simp [Host.Core.run, played]

theorem Plays.append {cfg : Cfg} {ls ls' : List Line} {es es' : List Event} (h : Plays cfg ls es)
    (h' : Plays cfg ls' es') : Plays cfg (ls ++ ls') (es ++ es') := by
  intro s rest hcfg idle done script
  rw [List.append_assoc] at script
  rw [List.length_append, run_add (h s (ls' ++ rest) hcfg idle done script),
    h' (played s ls.length (ls' ++ rest) es) rest hcfg idle done rfl]
  simp only [played, Nat.add_assoc, List.append_assoc]

/-- A program step whose operations record events and do nothing else, as a line. -/
theorem plays_progLine {cfg : Cfg} (hc : admitted cfg = true) {ops : List ProgOp} {es : List Event}
    (h : ∀ s : State, s.cfg = cfg → runOps ops s = .go { s with history := s.history ++ es }) :
    Plays cfg [progLine ops] es := by
  intro s rest hcfg idle done script
  have line : step s = exec (.evProg ops) (WithBank0.taken s rest) :=
    WithBank0.step_of_line hc hcfg script rfl
  have own := exec_evProg_own (s := WithBank0.taken s rest) idle done ops
  refine (run_succ (n := 0) (line.trans (own.trans ?_))).trans rfl
  simp only [exec, execIdle, opsStep, h (WithBank0.taken s rest) hcfg, precise_go, toOut_go]
  rfl

/-! ### The SerialIO primitives -/

theorem pollsUntil_append {ready : Byte → Bool} {ws : List Byte} (h : ∀ v ∈ ws, ready v = false)
    (vs : List Byte) : pollsUntil ready (ws ++ vs) = ws ++ pollsUntil ready vs := by
  induction ws with
  | nil => rfl
  | cons w ws ih =>
    rw [List.forall_mem_cons] at h
    obtain ⟨unready, later⟩ := h
    simp [pollsUntil, unready, ih later]

/-- A wait that ends at its last status polls all of them. -/
theorem pollsUntil_ended {ready : Byte → Bool} {ws : List Byte} {r : Byte}
    (h : ∀ v ∈ ws, ready v = false) (hr : ready r = true) :
    pollsUntil ready (ws ++ [r]) = ws ++ [r] := by
  rw [pollsUntil_append h]
  simp [pollsUntil, hr]

/-- A wait that does not end polls all its statuses too. -/
theorem pollsUntil_unended {ready : Byte → Bool} {ws : List Byte} (h : ∀ v ∈ ws, ready v = false) :
    pollsUntil ready ws = ws := by
  simpa [pollsUntil] using pollsUntil_append h []

section
variable {cfg : Cfg} (hc : admitted cfg = true)
include hc

theorem plays_dataRead (d : Byte) :
    Plays cfg [progLine [.rd (uartData cfg) d]] [.rd cfg.uartBase d] :=
  plays_progLine hc fun s hcfg => by
    subst hcfg
    rw [runOps, runOp, addrTarget_uartData s.cfg hc, BusRows.busAccess_read_device (.inr rfl)]
    rfl

theorem plays_dataWrite (d : Byte) :
    Plays cfg [progLine [.wr (uartData cfg) d]] [.wr cfg.uartBase d] :=
  plays_progLine hc fun s hcfg => by
    subst hcfg
    rw [runOps, runOp, addrTarget_uartData s.cfg hc, BusRows.busAccess_write_device (.inr rfl)]
    rfl

variable (unlimited : cfg.maxSpins = none)
include unlimited

section
variable {poll : Byte → ProgOp} {ready : Byte → Bool} (hp : Poll poll ready)
include hp

theorem plays_poll (v : Byte) : Plays cfg [progLine [poll v]] [statusRead cfg v] :=
  plays_progLine hc fun s hcfg => by
    subst hcfg
    rw [runOps, runOp_poll_unlimited hc hp unlimited]
    rfl

theorem plays_firstPoll (v : Byte) :
    Plays cfg [progLine [.beginWait, poll v]] [statusRead cfg v] :=
  plays_progLine hc fun s hcfg => by
    subst hcfg
    rw [runOps, runOp, startWait_unlimited unlimited, andThen_go, runOps,
      runOp_poll_unlimited hc hp unlimited]
    rfl

theorem plays_laterPolls (vs : List Byte) :
    Plays cfg (vs.map fun v => progLine [poll v]) (vs.map (statusRead cfg)) := by
  induction vs with
  | nil => exact .nil cfg
  | cons v vs ih => exact (plays_poll hc unlimited hp v).append ih

theorem plays_waitLines (vs : List Byte) :
    Plays cfg (waitLines poll vs) (vs.map (statusRead cfg)) := by
  cases vs with
  | nil => exact .nil cfg
  | cons v vs =>
    exact (plays_firstPoll hc unlimited hp v).append (plays_laterPolls hc unlimited hp vs)

end

theorem plays_receiveByteLines {ws : List Byte} {r : Byte} (h : ∀ v ∈ ws, rxFull v = false)
    (hr : rxFull r = true) (d : Byte) : Plays cfg (receiveByteLines cfg (ws ++ [r]) d)
      ((ws ++ [r]).map (statusRead cfg) ++ [.rd cfg.uartBase d]) := by
  have ended : (ws ++ [r]).any rxFull = true := by simp [hr]
  rw [receiveByteLines, if_pos ended, pollsUntil_ended h hr]
  exact (plays_waitLines hc unlimited .rx _).append (plays_dataRead hc d)

theorem plays_transmitByteLines {ws : List Byte} {r : Byte} (h : ∀ v ∈ ws, txEmpty v = false)
    (hr : txEmpty r = true) (d : Byte) : Plays cfg (transmitByteLines cfg (ws ++ [r]) d)
      ((ws ++ [r]).map (statusRead cfg) ++ [.wr cfg.uartBase d]) := by
  have ended : (ws ++ [r]).any txEmpty = true := by simp [hr]
  rw [transmitByteLines, if_pos ended, pollsUntil_ended h hr]
  exact (plays_waitLines hc unlimited .tx _).append (plays_dataWrite hc d)

end

/-! ### The polled echo loop -/

/-- What the device answers in a round that ends: for each wait the unready statuses and the ready one,
and between them the byte received. -/
abbrev Ended : Type := (List Byte × Byte) × Byte × (List Byte × Byte)

/-- Each wait's last status is its first ready one. -/
def Ended.valid (r : Ended) : Prop :=
  (∀ v ∈ r.1.1, rxFull v = false) ∧ rxFull r.1.2 = true ∧
    (∀ v ∈ r.2.2.1, txEmpty v = false) ∧ txEmpty r.2.2.2 = true

/-- The round of these answers. -/
def Ended.round (r : Ended) : EchoRound :=
  .mk (r.1.1 ++ [r.1.2]) r.2.1 (r.2.2.1 ++ [r.2.2.2])

/-- What the round records: the byte received, after its polls, and sent, after its polls. -/
def Ended.events (cfg : Cfg) (r : Ended) : List Event :=
  (r.1.1 ++ [r.1.2]).map (statusRead cfg) ++ [.rd cfg.uartBase r.2.1] ++
    (r.2.2.1 ++ [r.2.2.2]).map (statusRead cfg) ++ [.wr cfg.uartBase r.2.1]

theorem Ended.valid_iff (r : Ended) : r.valid ↔
    (∀ v ∈ r.1.1, v &&& 0x08 = 0) ∧ r.1.2 &&& 0x08 ≠ 0 ∧
      (∀ v ∈ r.2.2.1, v &&& 0x10 = 0) ∧ r.2.2.2 &&& 0x10 ≠ 0 := by
  simp only [valid, ← Bool.not_eq_false, rxFull_eq_false_iff, txEmpty_eq_false_iff, ne_eq]

section
variable {cfg : Cfg} (hc : admitted cfg = true) (unlimited : cfg.maxSpins = none)
include hc unlimited

theorem plays_endedRound {r : Ended} (h : r.valid) :
    Plays cfg (echoRoundLines cfg r.round) (r.events cfg) := by
  obtain ⟨rxWaits, rxEnds, txWaits, txEnds⟩ := h
  have received : r.round.received = true := by simp [EchoRound.received, Ended.round, rxEnds]
  rw [echoRoundLines, if_pos received, Ended.events, List.append_assoc _ (List.map _ _)]
  exact (plays_receiveByteLines hc unlimited rxWaits rxEnds r.2.1).append
    (plays_transmitByteLines hc unlimited txWaits txEnds r.2.1)

/-- Where nothing is received, the polls are all there is: no DATA access, and no next round. -/
theorem plays_unendedRound {ws : List Byte} (h : ∀ v ∈ ws, rxFull v = false) (d : Byte)
    (tx : List Byte) : Plays cfg (echoLines cfg [.mk ws d tx]) (ws.map (statusRead cfg)) := by
  have waits : ws.any rxFull = false := by simpa using h
  have polls : echoLines cfg [.mk ws d tx] = waitLines .pollRx ws := by
    simp [echoLines, echoRoundLines, receiveByteLines, EchoRound.received, waits,
      pollsUntil_unended h]
  rw [polls]
  exact plays_waitLines hc unlimited .rx ws

/-- Rounds that end, one after the other, and then `last`. -/
theorem plays_echoLines {ended : List Ended} (h : ∀ r ∈ ended, r.valid) {last : List EchoRound}
    {es : List Event} (hlast : Plays cfg (echoLines cfg last) es) :
    Plays cfg (echoLines cfg (ended.map Ended.round ++ last))
      (ended.flatMap (Ended.events cfg) ++ es) := by
  induction ended with
  | nil => exact hlast
  | cons r ended ih =>
    rw [List.forall_mem_cons] at h
    obtain ⟨valid, later⟩ := h
    have ends : r.round.ends = true := by
      obtain ⟨-, rxEnds, -, txEnds⟩ := valid
      simp [EchoRound.ends, EchoRound.received, Ended.round, rxEnds, txEnds]
    rw [List.map_cons, List.cons_append, echoLines, if_pos ends, List.flatMap_cons,
      List.append_assoc]
    exact (plays_endedRound hc unlimited valid).append (ih later)

end

/-- Settles O60, by induction on the rounds that end (`plays_echoLines`), each round its waits and its
two DATA accesses one line at a time. -/
theorem polledEchoLoopEchoes : Obligations.PolledEchoLoopEchoes := by
  intro s ended unended data tx rest hc unlimited idle done valid waits rounds status script
  have last := plays_unendedRound hc unlimited
    (fun v hv => (rxFull_eq_false_iff v).mpr (waits v hv)) data tx
  have whole := plays_echoLines hc unlimited
    (fun r hr => (Ended.valid_iff r).mpr (valid r hr)) last
  rw [List.append_assoc]
  exact whole s rest rfl idle done script

end Sys2Proof.Proofs.SerialIO

/-! PROOFS. The BankSwitch register (41_bankswitch.md): its `read()` and `write(page)` as $F000 rows
and as program operations (R89, R90), and who writes it outside the program (R93, R94). -/

namespace Sys2Proof.Proofs.BankSwitch

open Sys2Proof Sys2Proof.Machine Sys2Proof.Proofs.MicroSteps Sys2Proof.Proofs.Effects
  Sys2Proof.Proofs.Writers Sys2Proof.Proofs.ProgramSteps

/-! ### The writers outside the program -/

/-- Only ENT_BANK_FORCE and RST_BANK_WRITE write the selector (42_entry.md R103, 45_restore.md R126):
no handler does (R94). -/
theorem bank0_of_microStep {s t : State} (h : MicroStep s t) :
    t.bank0 = s.bank0 ∨ (s.phase = phEntBankForce ∧ t.bank0 = some 0) ∨
      (s.phase = phRstBankWrite ∧ ∃ f rest, s.frames = f :: rest ∧ t.bank0 = some f.bank) := by
  cases h with
  | entBankForce phase => exact .inr (.inl ⟨phase, rfl⟩)
  | rstBankWrite phase frames => exact .inr (.inr ⟨phase, _, _, frames, rfl⟩)
  | tableLo | tableHi => exact .inl (by simp)
  | @rstRti f rest =>
    obtain ⟨pc, rx, spins, w, h⟩ := returnFromInterrupt_eq s f rest
    rw [h]
    exact .inl rfl
  | _ => exact .inl rfl

/-- Away from IDLE, an effect that changes the selector is one of those two micro-steps or a reset. -/
theorem bank0_of_effect {s t : State} (h : Effect s t) (away : s.phase ≠ phIdle)
    (hne : t.bank0 ≠ s.bank0) :
    (s.phase = phEntBankForce ∧ t.bank0 = some 0) ∨
      (s.phase = phRstBankWrite ∧ ∃ f rest, s.frames = f :: rest ∧ t.bank0 = some f.bank) ∨
      (t.bank0 = s.cfg.bankReset ∧ Event.reset ∈ t.history.drop s.history.length) := by
  cases h with
  | nothing => exact absurd rfl hne
  | program idle => exact absurd idle away
  | reset d => exact .inr (.inr ⟨rfl, reset_mem_of_resetState d s⟩)
  | accept => exact absurd rfl hne
  | overflow => exact absurd rfl hne
  | nmi => exact absurd rfl hne
  | micro _ step => exact ((bank0_of_microStep step).resolve_left hne).imp_right .inl

/-- Settles O55: the writers of the selector among the effects. -/
theorem bankSelectorWriters : Obligations.BankSelectorWriters := by
  intro s t h away hne
  obtain ⟨-, -, s', t', ⟨_, _, rfl⟩, he, ⟨_, _, rfl⟩⟩ := step_cases h
  have writer := bank0_of_effect he away hne
  exact writer

/-! ### `read()` and `write(page)` -/

/-- `read()` of a written selector, with what is done with the byte (R89). -/
theorem bankSwitchRead_written {s : State} {b : Byte} (k : Byte → State → Flow)
    (h : s.bank0 = some b) : bankSwitchRead s k = k b (s.emit (.rd bank0Addr b)) :=
  readThen_of_value k h

/-- `read()` of the unwritten selector (60_exceptions.md R134): the bus read is not made. -/
theorem bankSwitchRead_unwritten {s : State} (k : Byte → State → Flow) (h : s.bank0 = none) :
    bankSwitchRead s k = .raised (raise s .bankUnwritten 0xF000) :=
  readThen_unwritten k h

/-- The $F000 read row is `read()` with nothing done with the byte. -/
theorem exec_addrBank0Read (s : State) :
    exec .addrBank0Read s = (bankSwitchRead s fun _ u => .go u).toOut := rfl

/-- A program step of the one operation `bankrd` puts the byte in A (30_encoding.md R78). -/
theorem exec_idle_bankRd (s : State) : exec (.idle [.bankRd]) s =
    (precise s ((bankSwitchRead s fun v u => .go { u with a := v }).andThen .go)).toOut := rfl

/-- Settles O11: a write always goes on; a read is `bankSwitchRead_written` or
`bankSwitchRead_unwritten`, as a row and as a program operation alike. -/
theorem bankSwitchReadAndWrite : Obligations.BankSwitchReadAndWrite := by
  refine ⟨fun cfg v => ⟨rfl, rfl⟩, fun s page => ⟨rfl, rfl, fun b written => ⟨?_, ?_⟩,
    fun unwritten => ?_⟩⟩
  · rw [exec_addrBank0Read, bankSwitchRead_written _ written]
    rfl
  · exact exec_idle_single (bankSwitchRead_written _ written)
  · rw [exec_addrBank0Read, exec_idle_bankRd, bankSwitchRead_unwritten _ unwritten,
      bankSwitchRead_unwritten _ unwritten]
    exact ⟨rfl, rfl⟩

end Sys2Proof.Proofs.BankSwitch

/-! PROOFS. The four Entering micro-steps, each as its whole next state (42_entry.md R100 to R103). -/

namespace Sys2Proof.Proofs.EnteringSteps

open Sys2Proof Sys2Proof.Machine

/-- The frame with the core's registers saved in it, and with KSTACK its stack (42_entry.md R100). -/
def savedFrame (s : State) (f : Frame) : Frame :=
  { f with a := s.a, x := s.x, y := s.y,
           sp := if s.cfg.kstack then s.sp else f.sp,
           ssel := if s.cfg.kstack then s.ssel else f.ssel }

section
variable {s : State} {f : Frame} {rest : List Frame}

theorem exec_entSave (h : s.frames = f :: rest) :
    exec .entSave s =
      .next { s with frames := savedFrame s f :: rest, phase := phEntBankRead } := by
  simp only [exec, execEntSave, withTop_cons _ h, toOut_go, savedFrame]

theorem exec_entBankRead_written (h : s.frames = f :: rest) {b : Byte} (hb : s.bank0 = some b) :
    exec .entBankRead s = .next { s.emit (.rd bank0Addr b) with
      frames := { f with bank := b } :: rest,
      phase := if s.cfg.kstack then phEntKstackSwitch else phEntBankForce } := by
  have hv : readValue s .bank0 bank0Addr 0 = some b := hb
  simp only [exec, execEntBankRead, withTop_cons _ h, readThen_of_value _ hv,
    afterRead_bank0Target, toOut_go, emit_cfg]

theorem exec_entBankRead_unwritten (h : s.frames = f :: rest) (hb : s.bank0 = none) :
    exec .entBankRead s = .next (raise s .bankUnwritten 0xF000) := by
  have hv : readValue s .bank0 bank0Addr 0 = none := hb
  simp only [exec, execEntBankRead, withTop_cons _ h, readThen_unwritten _ hv, toOut_raised]

theorem exec_entKstackSwitch (hk : s.cfg.kstack = true) :
    exec .entKstackSwitch s = .next { s with
      sp := if s.ssel = .user then s.cfg.kstackTop else s.sp, ssel := .kernel,
      phase := phEntBankForce } := if_pos hk

theorem exec_entKstackSwitch_absent (hk : s.cfg.kstack = false) :
    exec .entKstackSwitch s = .refused .kstackAbsent := by
  simp only [exec, execEntKstackSwitch, hk, Bool.false_eq_true, if_false]

theorem exec_entBankForce (s : State) :
    exec .entBankForce s =
      .next { s.emit (.wr bank0Addr 0x00) with bank0 := some 0x00, phase := phDspBrkCheck } := rfl

end

/-- Settles O15: `exec_entSave`. -/
theorem entSaveCopiesRegisters : Obligations.EntSaveCopiesRegisters :=
  ⟨fun _ => rfl, fun _ _ _ h => exec_entSave h⟩

/-- Settles O16: the selector is written or it is not. -/
theorem entBankReadSavesSelector : Obligations.EntBankReadSavesSelector :=
  ⟨fun _ => rfl, fun _ _ _ h =>
    ⟨fun _ written => exec_entBankRead_written h written, exec_entBankRead_unwritten h⟩⟩

/-- Settles O17: the two stacks the switch may come from, and its refusal. -/
theorem entKstackSwitchSelectsKernel : Obligations.EntKstackSwitchSelectsKernel := by
  refine ⟨fun _ => rfl, fun s => ⟨fun hk user => ?_, fun hk kernel => ?_,
    exec_entKstackSwitch_absent⟩⟩
  · rw [exec_entKstackSwitch hk, if_pos user]
    rfl
  · rw [exec_entKstackSwitch hk, if_neg (by simp [kernel]), ← kernel]
    rfl

/-- Settles O18: `exec_entBankForce`. -/
theorem entBankForceWritesZero : Obligations.EntBankForceWritesZero :=
  ⟨fun _ => rfl, exec_entBankForce⟩

end Sys2Proof.Proofs.EnteringSteps

/-! PROOFS. Acceptance of an IRQ or SWI (42_entry.md R97 to R99): where it happens, the whole state it
leaves, and that elsewhere nothing does. -/

namespace Sys2Proof.Proofs.Acceptance

open Sys2Proof Sys2Proof.Machine Sys2Proof.Proofs.Admission Sys2Proof.Proofs.Invariant
  Sys2Proof.Proofs.StepEvent Sys2Proof.Proofs.ProgramSteps Sys2Proof.Proofs.Repetition

/-! ### The state acceptance leaves -/

/-- The events of an acceptance: its own and the two reads of the IRQ vector (42_entry.md R98, R99). -/
def acceptanceEvents (cfg : Cfg) (e : Event) : List Event :=
  [e, .rd 0xFFFE (lowByte cfg.dispatchEntry), .rd 0xFFFF (highByte cfg.dispatchEntry)]

/-- The state acceptance leaves: in an admitted configuration the IRQ vector spells DISPATCH_ENTRY
(00_scope.md R10 (a)). -/
theorem acceptInterrupt_eq {s : State} (hc : admitted s.cfg = true) (e : Event) (ret : Position)
    (brk : Bool) : acceptInterrupt s e ret brk = { s with
      history := s.history ++ acceptanceEvents s.cfg e,
      frames := newFrame s ret brk :: s.frames,
      pc := s.cfg.dispatchEntry, phase := phEntSave } := by
  obtain ⟨-, -, spells⟩ := vectors_spell s.cfg hc
  obtain ⟨lo, hi⟩ := (entryValue_eq_iff s.cfg.vec.irq s.cfg.dispatchEntry).mp spells
  have events : s.history ++ acceptanceEvents s.cfg e = s.history ++ [e] ++
      [Event.rd irqVector s.cfg.vec.irq.lo] ++ [Event.rd (irqVector + 1) s.cfg.vec.irq.hi] := by
    simp only [acceptanceEvents, lo, hi, List.append_assoc, List.cons_append, List.nil_append]
    rfl
  rw [events, ← spells]
  rfl

/-- Acceptance, whole, whichever interrupt it takes: a new frame below MAX_DEPTH, STACK_OVERFLOW at
it (42_entry.md R98, R99, 60_exceptions.md R133). -/
theorem acceptance_whole {s : State} {o : Out} {e : Event} {ret : Position} {brk : Bool}
    (hc : admitted s.cfg = true) (ho : o = (acceptOrOverflow s e ret brk).toOut) :
    (s.frames.length ≠ s.cfg.maxDepth →
      ∃ a x y bank sp ssel, o = .next { s with
        history := s.history ++ acceptanceEvents s.cfg e,
        frames := { ret := ret, p := s.p, brk := brk, a := a, x := x, y := y, bank := bank,
                    sp := sp, ssel := ssel } :: s.frames,
        pc := s.cfg.dispatchEntry, phase := phEntSave }) ∧
    (s.frames.length = s.cfg.maxDepth →
      o = .next (raise s .stackOverflow s.cfg.maxDepth)) := by
  subst ho
  rcases acceptOrOverflow_cases s e ret brk with ⟨full, h⟩ | ⟨room, h⟩
  · exact ⟨fun room => absurd full room, fun _ => by rw [h, full, toOut_raised]⟩
  · refine ⟨fun _ => ?_, fun full => absurd full room⟩
    rw [h, toOut_go, acceptInterrupt_eq hc]
    exact ⟨_, _, _, _, _, _, rfl⟩

/-! ### Where it happens -/

theorem exec_evIrq_enabled {s : State} (hr : Running s) (he : irqEnabled s = true) :
    exec .evIrq s = (acceptOrOverflow s .irq (returnPosition s) false).toOut := by
  simp only [exec, execEvIrq, stopped_of_running hr, he, if_true, irqFlow]

theorem exec_evSwi_idle {s : State} (h : AtIdle s) :
    exec .evSwi s = (acceptOrOverflow s .swi (.prog s.pc) true).toOut := by
  have idle : s.phase = phIdle := h.2
  simp only [exec, execEvSwi, stopped_of_running (running_of_atIdle h), if_pos idle]

theorem returnPosition_idle {s : State} (h : s.phase = phIdle) :
    returnPosition s = .prog s.pc := if_pos h

theorem returnPosition_away {s : State} (h : s.phase ≠ phIdle) :
    returnPosition s = .hnd (phaseHandler s.phase) (phaseStep s.phase) s.rx s.spins := if_neg h

/-- Settles O39: both kinds of acceptance point enable the IRQ, and `acceptance_whole`. -/
theorem irqAcceptance : Obligations.IrqAcceptance := by
  refine ⟨fun _ => rfl, fun s hc clean unmasked ret point => ?_⟩
  have enabled : Running s ∧ irqEnabled s = true ∧ returnPosition s = ret := by
    rw [irqEnabled_iff]
    rcases point with ⟨idle, rfl⟩ | ⟨handler, nest, rfl⟩
    · exact ⟨running_of_atIdle ⟨clean, idle⟩, ⟨unmasked, .inl idle⟩, returnPosition_idle idle⟩
    · have phase := handlerPhase_of_isHandler handler
      exact ⟨⟨clean, phase.no_fault⟩, ⟨unmasked, .inr ⟨handler, nest⟩⟩,
        returnPosition_away phase.not_idle⟩
  obtain ⟨hr, he, rfl⟩ := enabled
  exact acceptance_whole hc (exec_evIrq_enabled hr he)

/-- Settles O40: SWI is the same acceptance, its enabling the phase alone. -/
theorem swiAcceptance : Obligations.SwiAcceptance :=
  ⟨fun _ => rfl, fun _ hc idle => acceptance_whole hc (exec_evSwi_idle idle)⟩

/-! ### Elsewhere -/

theorem exec_irq_disabled {s : State} (hr : Running s) (he : irqEnabled s = false) :
    exec .evIrq s = .next s ∧ ∀ d, exec (.pseudoActivation d) s = .next s := by
  simp only [exec, execEvIrq, execPseudoActivation, stopped_of_running hr, he, Bool.false_eq_true,
    if_false, implies_true, and_self]

theorem exec_evSwi_away {s : State} (hr : Running s) (away : s.phase ≠ phIdle) :
    exec .evSwi s = .next s := by
  simp only [exec, execEvSwi, stopped_of_running hr, if_neg away]

theorem exec_evStep_idle {s : State} (hr : Running s) (idle : s.phase = phIdle) (mode : StepMode)
    (d : Draws) : exec (.evStep mode d) s = .next s := by
  simp only [exec, execEvStep, stopped_of_running hr, if_pos idle]

/-- An IRQ is not enabled while masked, or away from both kinds of acceptance point (R97). -/
theorem irqEnabled_eq_false {s : State} (h : s.imask = true ∨
    (s.phase ≠ phIdle ∧ (isHandler s.phase = false ∨ s.cfg.nestEnable = false))) :
    irqEnabled s = false := by
  rw [← Bool.not_eq_true, irqEnabled_iff]
  rintro ⟨unmasked, point⟩
  rcases h with masked | ⟨away, closed⟩
  · simp [masked] at unmasked
  · obtain ⟨handler, nest⟩ := point.resolve_left away
    simp [handler, nest] at closed

/-- Settles O41: each event where it is not enabled. -/
theorem interruptsOnlyAtAcceptancePoints : Obligations.InterruptsOnlyAtAcceptancePoints := by
  intro s hr
  exact ⟨fun closed => exec_irq_disabled hr (irqEnabled_eq_false closed), exec_evSwi_away hr,
    fun away ops => programStep_away hr away _ _, exec_evStep_idle hr⟩

end Sys2Proof.Proofs.Acceptance

/-! PROOFS. Entering as a whole (42_entry.md R104): its micro-steps as a chain in which each is the same
whatever the history and the lines, so that NMIs may fall anywhere between them. -/

namespace Sys2Proof.Proofs.EnteringRun

open Sys2Proof Sys2Proof.Machine Sys2Proof.Proofs.StepEvent Sys2Proof.Proofs.ProgramSteps
  Sys2Proof.Proofs.WithBank0 Sys2Proof.Proofs.Restoration Sys2Proof.Proofs.Repetition
  Sys2Proof.Proofs.EnteringSteps Sys2Proof.Proofs.Acceptance

/-! ### Chains of micro-steps -/

/-- The block of `v` with this history and these lines to come, `k` of them taken before. -/
def placed (v : State) (history : List Event) (ls : List Line) (k : Nat) : State :=
  { v with history := history, script := ls, drawCount := k }

/-- The micro-step of `v` records `es` and leads to the block of `t`, whatever the history and the
lines. -/
structure OwnStep (v : State) (es : List Event) (t : State) : Prop where
  running : Running v
  cfg : t.cfg = v.cfg
  acts : ∀ history ls k, exec (.evStep .once {}) (placed v history ls k) =
    .next (placed t (history ++ es) ls k)

/-- The row a phase word decodes to gives its micro-step (30_encoding.md R65). -/
theorem OwnStep.of_exec {v t : State} {es : List Event} {w : PhaseWord} {i : Instr}
    (clean : v.fault = none) (phase : v.phase = w) (no_fault : faultOfWord w = none)
    (away : w ≠ phIdle) (row : ∀ vals, decodePhase w vals = .ok i) (cfg : t.cfg = v.cfg)
    (h : ∀ history ls k, exec i (placed v history ls k) =
      .next (placed t (history ++ es) ls k)) : OwnStep v es t := by
  subst phase
  exact ⟨⟨clean, no_fault⟩, cfg, fun history ls k =>
    (stepEventRunsPhaseWord (placed v history ls k) {} i ⟨clean, no_fault⟩ away (row _)).1.trans
      (h history ls k)⟩

/-- `n` micro-steps take the block of `v` to that of `u` and record `es` in all. -/
inductive Chain (u : State) : State → Nat → List Event → Prop
  | done : Running u → Chain u u 0 []
  | step {v t n es es'} : OwnStep v es t → Chain u t n es' → Chain u v (n + 1) (es ++ es')

theorem Chain.running {u v : State} {n : Nat} {es : List Event} (h : Chain u v n es) :
    Running v := by
  cases h with
  | done running => exact running
  | step own _ => exact own.running

/-- What of a history is not an NMI's (60_exceptions.md R137). -/
def withoutNmi (cfg : Cfg) (es : List Event) : List Event :=
  es.filter fun e => !(nmiEvents cfg).contains e

theorem withoutNmi_append (cfg : Cfg) (es es' : List Event) :
    withoutNmi cfg (es ++ es') = withoutNmi cfg es ++ withoutNmi cfg es' := List.filter_append ..

theorem withoutNmi_nmiEvents (cfg : Cfg) : withoutNmi cfg (nmiEvents cfg) = [] := by
  simp [withoutNmi]

/-- A chain runs to its end under its step lines with NMIs at any places between them: an NMI changes
the history alone, which no micro-step of the chain depends on. -/
theorem run_of_chain {cfg : Cfg} (hc : admitted cfg = true) {u : State} {rest : List Line}
    (ls : List Line) (lines : ∀ l ∈ ls, l = .event 4 {} ∨ l = .event 5 {}) {v : State}
    {es : List Event} (hv : v.cfg = cfg) (chain : Chain u v (ls.count (.event 5 {})) es)
    (history : List Event) (k : Nat) :
    ∃ es' k', core.run ls.length (placed v history (ls ++ rest) k) =
        .next (placed u (history ++ es') rest k') ∧ withoutNmi cfg es' = withoutNmi cfg es := by
  induction ls generalizing v es history k with
  | nil =>
    cases chain
    exact ⟨[], k, by rw [List.append_nil]; rfl, rfl⟩
  | cons l ls ih =>
    have lines' : ∀ l' ∈ ls, l' = .event 4 {} ∨ l' = .event 5 {} :=
      fun l' h => lines l' (List.mem_cons_of_mem l h)
    rcases lines l List.mem_cons_self with rfl | rfl
    · rw [List.count_cons_of_ne (by simp)] at chain
      have nmi : step (placed v history (.event 4 {} :: (ls ++ rest)) k) =
          .next (placed v (history ++ nmiEvents cfg) (ls ++ rest) (k + 1)) :=
        (step_of_line (v := placed v history _ k) hc hv rfl rfl).trans
          (exec_evNmi_running (v := placed v history (ls ++ rest) (k + 1)) hc hv chain.running)
      obtain ⟨es', k', run, own⟩ := ih lines' hv chain (history ++ nmiEvents cfg) (k + 1)
      refine ⟨nmiEvents cfg ++ es', k', (run_succ nmi).trans ?_, ?_⟩
      · rw [run, List.append_assoc]
      · rw [withoutNmi_append, withoutNmi_nmiEvents, List.nil_append, own]
    · rw [List.count_cons_self] at chain
      cases chain with
      | @step _ t _ first later own chain =>
        have micro : step (placed v history (.event 5 {} :: (ls ++ rest)) k) =
            .next (placed t (history ++ first) (ls ++ rest) (k + 1)) :=
          (step_of_line (v := placed v history _ k) hc hv rfl rfl).trans
            (own.acts history (ls ++ rest) (k + 1))
        obtain ⟨es', k', run, tail⟩ :=
          ih lines' (own.cfg.trans hv) chain (history ++ first) (k + 1)
        refine ⟨first ++ es', k', (run_succ micro).trans ?_, ?_⟩
        · rw [run, List.append_assoc]
        · rw [withoutNmi_append, withoutNmi_append, tail]

/-! ### The Entering chain, from its end -/

/-- A state in Entering with the top frame saved, as the last steps leave it: with KSTACK on the
kernel stack, and bank 0 forced (42_entry.md R102, R103). -/
def entered (v : State) : State :=
  { v with
    sp := if v.cfg.kstack then (if v.ssel = .user then v.cfg.kstackTop else v.sp) else v.sp
    ssel := if v.cfg.kstack then .kernel else v.ssel
    bank0 := some 0x00
    phase := phDspBrkCheck }

section
variable {v : State} (clean : v.fault = none)
include clean

theorem chain_entBankForce (phase : v.phase = phEntBankForce) :
    Chain { v with bank0 := some 0x00, phase := phDspBrkCheck } v 1 [.wr 0xF000 0x00] := by
  refine .step (es := [.wr 0xF000 0x00]) ?_ (.done ⟨clean, rfl⟩)
  exact .of_exec clean phase rfl (by decide) (fun _ => rfl) rfl fun history ls k =>
    exec_entBankForce (placed v history ls k)

theorem chain_entKstackSwitch (phase : v.phase = phEntKstackSwitch) (hk : v.cfg.kstack = true) :
    Chain { v with
      sp := if v.ssel = .user then v.cfg.kstackTop else v.sp, ssel := .kernel,
      bank0 := some 0x00, phase := phDspBrkCheck } v 2 [.wr 0xF000 0x00] := by
  refine .step (es := []) ?_ (chain_entBankForce (v := { v with
    sp := if v.ssel = .user then v.cfg.kstackTop else v.sp, ssel := .kernel,
    phase := phEntBankForce }) clean rfl)
  refine .of_exec clean phase rfl (by decide) (fun _ => rfl) rfl fun history ls k => ?_
  rw [List.append_nil]
  exact exec_entKstackSwitch (s := placed v history ls k) hk

/-- What follows ENT_BANK_READ, by KSTACK. -/
theorem chain_after_entBankRead
    (phase : v.phase = if v.cfg.kstack then phEntKstackSwitch else phEntBankForce) :
    Chain (entered v) v (if v.cfg.kstack then 2 else 1) [.wr 0xF000 0x00] := by
  cases hk : v.cfg.kstack with
  | true =>
    simp only [hk, if_true] at phase
    simpa only [entered, hk, if_true] using chain_entKstackSwitch clean phase hk
  | false =>
    simp only [hk, Bool.false_eq_true, if_false] at phase
    simpa only [entered, hk, Bool.false_eq_true, if_false] using chain_entBankForce clean phase

theorem chain_entBankRead (phase : v.phase = phEntBankRead) {f : Frame} {rest : List Frame}
    (frames : v.frames = f :: rest) {b : Byte} (bank : v.bank0 = some b) :
    Chain (entered { v with frames := { f with bank := b } :: rest }) v
      ((if v.cfg.kstack then 2 else 1) + 1) [.rd 0xF000 b, .wr 0xF000 0x00] := by
  refine .step (es := [.rd 0xF000 b]) ?_ (chain_after_entBankRead (v := { v with
    frames := { f with bank := b } :: rest,
    phase := if v.cfg.kstack then phEntKstackSwitch else phEntBankForce }) clean rfl)
  exact .of_exec clean phase rfl (by decide) (fun _ => rfl) rfl fun history ls k =>
    exec_entBankRead_written (s := placed v history ls k) frames bank

/-- All of Entering, from acceptance on. -/
theorem chain_entSave (phase : v.phase = phEntSave) {f : Frame} {rest : List Frame}
    (frames : v.frames = f :: rest) {b : Byte} (bank : v.bank0 = some b) :
    Chain (entered { v with frames := { savedFrame v f with bank := b } :: rest }) v
      ((if v.cfg.kstack then 2 else 1) + 1 + 1) [.rd 0xF000 b, .wr 0xF000 0x00] := by
  refine .step (es := []) ?_ (chain_entBankRead (v := { v with
    frames := savedFrame v f :: rest, phase := phEntBankRead }) clean rfl rfl bank)
  refine .of_exec clean phase rfl (by decide) (fun _ => rfl) rfl fun history ls k => ?_
  rw [List.append_nil]
  exact exec_entSave (s := placed v history ls k) frames

end

/-! ### From IDLE -/

/-- `s` with its first line, an IRQ, taken at IDLE (42_entry.md R98). -/
def irqAccepted (s : State) (ls : List Line) : State :=
  { taken s ls with
    history := s.history ++ acceptanceEvents s.cfg .irq
    frames := newFrame (taken s ls) (.prog s.pc) false :: s.frames
    pc := s.cfg.dispatchEntry
    phase := phEntSave }

theorem step_irq_idle {s : State} {ls : List Line} (hc : admitted s.cfg = true) (idle : AtIdle s)
    (unmasked : s.imask = false) (room : s.frames.length ≠ s.cfg.maxDepth)
    (script : s.script = .event 2 {} :: ls) : step s = .next (irqAccepted s ls) := by
  have hr : Running (taken s ls) := running_of_atIdle idle
  have enabled : irqEnabled (taken s ls) = true := (irqEnabled_iff _).mpr ⟨unmasked, .inl idle.2⟩
  rw [step_of_line hc rfl script rfl, (exec_irq_accepted hr enabled room {}).1,
    acceptInterrupt_eq (s := taken s ls) hc, returnPosition_idle (s := taken s ls) idle.2]
  rfl

theorem maxDepth_pos {cfg : Cfg} (hc : admitted cfg = true) : 0 < cfg.maxDepth := by
  simp only [admitted, depthAndMask, Bool.and_eq_true, decide_eq_true_eq] at hc
  omega

/-- No event of Entering is an NMI's: the vectors' addresses differ. -/
theorem withoutNmi_entering (cfg : Cfg) (b : Byte) :
    withoutNmi cfg (acceptanceEvents cfg .irq ++ [.rd 0xF000 b, .wr 0xF000 0x00]) =
      acceptanceEvents cfg .irq ++ [.rd 0xF000 b, .wr 0xF000 0x00] := by
  simp [withoutNmi, acceptanceEvents, nmiEvents]

/-- Settles O19: the acceptance, then the chain of micro-steps with the NMIs between them. -/
theorem enteringSequence : Obligations.EnteringSequence := by
  intro s b ls rest hc idle unmasked empty bank lines count script
  have room : s.frames.length ≠ s.cfg.maxDepth := by
    have := maxDepth_pos hc
    rw [empty, List.length_nil]
    omega
  have first := step_irq_idle hc idle unmasked room script
  have micro_steps : ls.count (.event 5 {}) = (if s.cfg.kstack then 2 else 1) + 1 + 1 := by
    rw [count]
    split <;> rfl
  have chain := chain_entSave (v := irqAccepted s (ls ++ rest)) idle.1 rfl rfl bank
  obtain ⟨es, k, run, own⟩ := run_of_chain (v := irqAccepted s (ls ++ rest)) hc (rest := rest) ls
    lines rfl (micro_steps ▸ chain) (s.history ++ acceptanceEvents s.cfg .irq) (s.drawCount + 1)
  refine ⟨_, _, _, acceptanceEvents s.cfg .irq ++ es, (run_succ first).trans run,
    List.append_assoc .., ?_, congrArg (_ :: ·) empty, fun hk => ?_, rfl, rfl, rfl, unmasked, rfl⟩
  · calc withoutNmi s.cfg (acceptanceEvents s.cfg .irq ++ es)
      _ = withoutNmi s.cfg (acceptanceEvents s.cfg .irq ++ [.rd 0xF000 b, .wr 0xF000 0x00]) := by
        rw [withoutNmi_append, own, ← withoutNmi_append]
      _ = _ := withoutNmi_entering s.cfg b
  · exact ⟨if_pos hk, if_pos hk, if_pos hk⟩

end Sys2Proof.Proofs.EnteringRun

/-! PROOFS. The Dispatching micro-steps, each as its whole next state (43_dispatch.md R105 to R111):
the break check, the source check, and the table entry a source's offset reads. -/

namespace Sys2Proof.Proofs.DispatchSteps

open Sys2Proof Sys2Proof.Machine Sys2Proof.Proofs.Admission Sys2Proof.Proofs.Invariant

/-! ### The break check -/

/-- Outside the mask the pushed byte is P: the flag is put in or taken out under the mask alone
(30_encoding.md R72). -/
theorem pushedStatus_outside_mask (cfg : Cfg) (f : Frame) :
    pushedStatus cfg f &&& ~~~cfg.brkMask = f.p &&& ~~~cfg.brkMask := by
  cases hb : f.brk with
  | false => simp [pushedStatus, hb, BitVec.and_assoc]
  | true =>
    ext i hi
    cases hm : cfg.brkMask[i] <;> simp [pushedStatus, hb, hm]

theorem pushedStatus_flag_iff {cfg : Cfg} (hc : admitted cfg = true) (f : Frame) :
    pushedStatus cfg f &&& cfg.brkMask ≠ 0 ↔ f.brk = true := by
  rw [← breakFlag_eq hc f, breakFlag, decide_eq_true_eq]

theorem exec_dspBrkCheck {s : State} {f : Frame} {rest : List Frame} (hc : admitted s.cfg = true)
    (h : s.frames = f :: rest) :
    exec .dspBrkCheck s = .next (if f.brk then
      { s.emit .brkUnimplemented with brkUnimpl := true, phase := phRstBankWrite }
      else { s with phase := phDspLatchRead }) := by
  simp only [exec, execDspBrkCheck, withTop_cons _ h, breakFlag_eq hc]
  split <;> rfl

/-- Settles O20: the pushed byte by its mask, and the micro-step by the frame's flag. -/
theorem dspBrkCheckBranches : Obligations.DspBrkCheckBranches := by
  refine ⟨fun _ => rfl, fun s f rest hc h => ⟨rfl, pushedStatus_flag_iff hc f,
    pushedStatus_outside_mask s.cfg f, fun brk => ?_, fun clear => ?_⟩⟩
  · rw [exec_dspBrkCheck hc h, if_pos brk]
    rfl
  · rw [exec_dspBrkCheck hc h, clear]
    rfl

/-! ### The source check -/

/-- The bounds check of R106 passes exactly the six values of 30_encoding.md R68. -/
theorem latchValid_iff (v : Byte) : latchValid v = true ↔ v ∈ sourceLatches := by
  refine ⟨mem_sourceLatches_of_latchValid, ?_⟩
  revert v
  decide

/-- The latch is a device, so its read is the drawn byte, recorded, and then the check. -/
theorem exec_dspLatchRead (s : State) (v : Byte) : exec (.dspLatchRead v) s =
    (if latchValid v then latchAccept v (s.emit (.rd latchAddr v))
      else latchUnmapped v (s.emit (.rd latchAddr v))).toOut := rfl

theorem exec_dspLatchRead_source (s : State) {v : Byte} (source : v ∈ sourceLatches) :
    exec (.dspLatchRead v) s =
      .next { s.emit (.rd latchAddr v) with off := v, phase := phDspTableLo } := by
  rw [exec_dspLatchRead, if_pos ((latchValid_iff v).mpr source)]
  rfl

theorem exec_dspLatchRead_unmapped (s : State) {v : Byte} (unmapped : v ∉ sourceLatches) :
    exec (.dspLatchRead v) s =
      .next (raise (s.emit (.rd latchAddr v)) .unmappedSource v.toNat) := by
  rw [exec_dspLatchRead, if_neg (mt (latchValid_iff v).mp unmapped)]
  rfl

/-- Settles O21: the two outcomes of the check. -/
theorem dspLatchReadChecksSource : Obligations.DspLatchReadChecksSource := by
  refine ⟨fun _ => rfl, fun s v => ⟨exec_dspLatchRead_source s, fun unmapped => ?_⟩⟩
  rw [exec_dspLatchRead_unmapped s unmapped, raise, emit_history, List.append_assoc]
  rfl

/-! ### The table reads -/

/-- `JT` has the entries 1 to 6 (00_scope.md R9). -/
theorem bounds_of_jumpEntry {cfg : Cfg} {h : Nat} {j : Addr} (entry : jumpEntry cfg h = some j) :
    1 ≤ h ∧ h < 7 := by
  revert h j
  rw [forall_jumpEntry_iff cfg fun h _ => 1 ≤ h ∧ h < 7]
  decide

/-- The byte offset of slot `h` does not wrap in a byte, so R108 and R109 address its two bytes. -/
theorem tableAddrs_eq_slotAddr (cfg : Cfg) {h : Nat} (hh : h < 7) :
    tableLoAddr cfg (BitVec.ofNat 8 (2 * h)) = slotAddr cfg h false ∧
      tableHiAddr cfg (BitVec.ofNat 8 (2 * h)) = slotAddr cfg h true := by
  have widened : ∀ h < 7, (BitVec.ofNat 8 (2 * h)).setWidth 16 = BitVec.ofNat 16 (2 * h) ∧
      (BitVec.ofNat 8 (2 * h)).setWidth 16 + 1 = BitVec.ofNat 16 (2 * h + 1) := by decide
  obtain ⟨lo, hi⟩ := widened h hh
  exact ⟨congrArg (cfg.tableBase + ·) lo,
    (BitVec.add_assoc ..).trans (congrArg (cfg.tableBase + ·) hi)⟩

/-- A read of a slot's byte shows the image and fixes no byte of memory. -/
theorem readThen_slot {s : State} (hc : admitted s.cfg = true) {h : Nat} (hh : h < 7) (hi : Bool)
    {v : Byte} (byte : tableByte s.cfg (slotAddr s.cfg h hi) = v) (d : Byte)
    (k : Byte → State → Flow) :
    readThen s (addrTarget s.cfg (slotAddr s.cfg h hi)) (slotAddr s.cfg h hi) d k =
      k v (s.emit (.rd (slotAddr s.cfg h hi) v)) := by
  have value : readValue s .table (slotAddr s.cfg h hi) d = some v := congrArg some byte
  rw [addrTarget_slotAddr s.cfg hc h hi hh, readThen_of_value k value, afterRead_table]

/-- The two bytes an entry's slot holds (00_scope.md R10 (e)). -/
theorem tableBytes_of_entry {cfg : Cfg} (hc : admitted cfg = true) {h : Nat} {j : Addr}
    (entry : jumpEntry cfg h = some j) :
    tableByte cfg (slotAddr cfg h false) = lowByte j ∧
      tableByte cfg (slotAddr cfg h true) = highByte j := by
  simp only [admitted, Bool.and_eq_true] at hc
  obtain ⟨⟨⟨-, spells⟩, -⟩, -⟩ := hc
  exact (tableSpells_iff cfg).mp spells h j entry

section
variable {s : State} {h : Nat} {j : Addr} (hc : admitted s.cfg = true)
  (entry : jumpEntry s.cfg h = some j) (off : s.off = BitVec.ofNat 8 (2 * h))
include hc entry off

theorem exec_dspTableLo : exec .dspTableLo s = .next
    { s.emit (.rd (slotAddr s.cfg h false) (lowByte j)) with
      lo := lowByte j, phase := phDspTableHi } := by
  obtain ⟨-, hh⟩ := bounds_of_jumpEntry entry
  obtain ⟨byte, -⟩ := tableBytes_of_entry hc entry
  obtain ⟨addr, -⟩ := tableAddrs_eq_slotAddr s.cfg hh
  simp only [exec, execDspTableLo, off, addr, readThen_slot hc hh false byte, toOut_go]

theorem exec_dspTableHi : exec .dspTableHi s = .next
    { s.emit (.rd (slotAddr s.cfg h true) (highByte j)) with
      hi := highByte j, phase := phDspJump } := by
  obtain ⟨-, hh⟩ := bounds_of_jumpEntry entry
  obtain ⟨-, byte⟩ := tableBytes_of_entry hc entry
  obtain ⟨-, addr⟩ := tableAddrs_eq_slotAddr s.cfg hh
  simp only [exec, execDspTableHi, off, addr, readThen_slot hc hh true byte, toOut_go]

end

/-- Settles O22: `exec_dspTableLo` and `exec_dspTableHi`. -/
theorem dspTableReadsEntry : Obligations.DspTableReadsEntry :=
  ⟨fun _ => ⟨rfl, rfl⟩, fun _ _ _ hc entry off =>
    ⟨exec_dspTableLo hc entry off, exec_dspTableHi hc entry off⟩⟩

/-! ### The jump -/

theorem exec_dspJump (s : State) : exec .dspJump s = .next { s with
    pc := word16 s.hi s.lo, spins := 0, rx := Config.freeByte s.drawCount 1,
    phase := handlerWord (handlerIndex s.off) 0 } := rfl

/-- Settles O23: `exec_dspJump`, and the handler word of each source's offset. -/
theorem dspJumpReachesHandler : Obligations.DspJumpReachesHandler := by
  have words : ∀ v ∈ sourceLatches, (v, handlerWord (handlerIndex v) 0) ∈
      [(0x02#8, 0x01A#9), (0x04#8, 0x02A#9), (0x06#8, 0x03A#9),
        (0x08#8, 0x04A#9), (0x0A#8, 0x05A#9), (0x0C#8, 0x06A#9)] := by decide
  exact ⟨fun _ => rfl, fun s source => ⟨_, _, words s.off source, exec_dspJump s⟩⟩

end Sys2Proof.Proofs.DispatchSteps

/-! PROOFS. Dispatching as a whole (43_dispatch.md R112): from the latch read to the first step of
the handler, or to UNMAPPED_SOURCE. -/

namespace Sys2Proof.Proofs.DispatchRun

open Sys2Proof Sys2Proof.Machine Sys2Proof.Proofs.Admission Sys2Proof.Proofs.Effects
  Sys2Proof.Proofs.StepEvent Sys2Proof.Proofs.Restoration Sys2Proof.Proofs.WithBank0
  Sys2Proof.Proofs.DispatchSteps

/-- A step line runs the row its phase word decodes to (30_encoding.md R65). -/
theorem step_of_stepLine {v : State} (hc : admitted v.cfg = true) {w : PhaseWord} {d : Draws}
    {ls : List Line} {i : Instr} (clean : v.fault = none) (phase : v.phase = w)
    (no_fault : faultOfWord w = none) (away : w ≠ phIdle)
    (script : v.script = .event 5 { draws := d } :: ls)
    (row : decodePhase w (stepVals d (taken v ls)) = .ok i) : step v = exec i (taken v ls) := by
  subst phase
  rw [step_of_line hc rfl script rfl]
  exact (stepEventRunsPhaseWord (taken v ls) d i ⟨clean, no_fault⟩ away row).1

/-- A step into a faulted state is the last of a run (10_state.md R35). -/
theorem run_into_fault {n : Nat} {s u : State} {c : Fault} {l : Line} {ls : List Line} {i : Instr}
    (first : step s = .next u) (hc : admitted u.cfg = true) (fault : u.fault = some c)
    (script : u.script = l :: ls) (hl : decodeLine l = .ok i) : core.run (n + 2) s = .fault c := by
  have stop : core.step u = .fault c :=
    (step_of_line hc rfl script hl).trans (faultedStateHasNoStep.1 (taken u ls) c l i fault hl)
  rw [run_succ first]
  simp only [Host.Core.run, stop]

/-- The two bytes of an address spell it (20_memory.md R41). -/
theorem word16_bytes (j : Addr) : word16 (highByte j) (lowByte j) = j :=
  (entryValue_eq_iff ⟨lowByte j, highByte j⟩ j).mpr ⟨rfl, rfl⟩

/-- Twice a handler's index is a source's latch value, and names that handler (43_dispatch.md
R107). -/
theorem source_of_handler : ∀ h < 7, 1 ≤ h → BitVec.ofNat 8 (2 * h) ∈ sourceLatches ∧
    handlerIndex (BitVec.ofNat 8 (2 * h)) = BitVec.ofNat 3 h := by decide

/-! ### To the handler, from the end -/

/-- In `n` steps `v` reaches the first step of handler `h` with PC at its entry `j`, and the events
`es` are recorded on the way (43_dispatch.md R112). -/
def Reaches (h : Nat) (j : Addr) (n : Nat) (v : State) (es : List Event) : Prop :=
  ∃ u, core.run n v = .next u ∧ u.phase = handlerWord (BitVec.ofNat 3 h) 0 ∧ u.pc = j ∧
    After v es u ∧ u.bank0 = v.bank0 ∧ u.fault = none

theorem Reaches.cons {h : Nat} {j : Addr} {n : Nat} {v t : State} {es : List Event} {e : Event}
    (first : step v = .next t) (after : After v [e] t) (bank0 : t.bank0 = v.bank0)
    (later : Reaches h j n t es) : Reaches h j (n + 1) v (e :: es) := by
  obtain ⟨u, run, phase, pc, after', bank0', clean⟩ := later
  have history : u.history = v.history ++ e :: es := by
    rw [after'.history, after.history, List.append_assoc, List.singleton_append]
  exact ⟨u, (run_succ first).trans run, phase, pc,
    ⟨after'.frames.trans after.frames, history⟩, bank0'.trans bank0, clean⟩

section
variable {v : State} {ls : List Line} {h : Nat} {j : Addr} (hc : admitted v.cfg = true)
  (clean : v.fault = none) (entry : jumpEntry v.cfg h = some j)
  (off : v.off = BitVec.ofNat 8 (2 * h))
include hc clean entry off

theorem reaches_from_jump (lo : v.lo = lowByte j) (hi : v.hi = highByte j)
    (phase : v.phase = phDspJump) (script : v.script = .event 5 {} :: ls) :
    Reaches h j 1 v [] := by
  obtain ⟨pos, small⟩ := bounds_of_jumpEntry entry
  obtain ⟨-, index⟩ := source_of_handler h small pos
  have first := (step_of_stepLine hc clean phase rfl (by decide) script rfl).trans
    (exec_dspJump (taken v ls))
  have word : handlerWord (handlerIndex v.off) 0 = handlerWord (BitVec.ofNat 3 h) 0 := by
    rw [off, index]
  have pc : word16 v.hi v.lo = j := by rw [hi, lo, word16_bytes]
  exact ⟨_, run_succ first, word, pc, ⟨rfl, (List.append_nil v.history).symm⟩, rfl, clean⟩

theorem reaches_from_tableHi (lo : v.lo = lowByte j) (phase : v.phase = phDspTableHi)
    (script : v.script = .event 5 {} :: .event 5 {} :: ls) :
    Reaches h j 2 v [.rd (slotAddr v.cfg h true) (highByte j)] := by
  have first := (step_of_stepLine hc clean phase rfl (by decide) script rfl).trans
    (exec_dspTableHi (s := taken v (.event 5 {} :: ls)) hc entry off)
  exact .cons first ⟨rfl, rfl⟩ rfl (reaches_from_jump hc clean entry off lo rfl rfl rfl)

theorem reaches_from_tableLo (phase : v.phase = phDspTableLo)
    (script : v.script = .event 5 {} :: .event 5 {} :: .event 5 {} :: ls) :
    Reaches h j 3 v [.rd (slotAddr v.cfg h false) (lowByte j),
      .rd (slotAddr v.cfg h true) (highByte j)] := by
  have first := (step_of_stepLine hc clean phase rfl (by decide) script rfl).trans
    (exec_dspTableLo (s := taken v (.event 5 {} :: .event 5 {} :: ls)) hc entry off)
  exact .cons first ⟨rfl, rfl⟩ rfl (reaches_from_tableHi hc clean entry off rfl rfl rfl)

end

/-! ### From the latch read -/

/-- Settles O25: a source's byte goes on to its handler; any other faults at the latch read,
where the run ends. -/
theorem dispatchSequence : Obligations.DispatchSequence := by
  intro s v rest hc clean phase script
  have latch : step s = exec (.dspLatchRead v) (taken s (List.replicate 3 (.event 5 {}) ++ rest)) :=
    step_of_stepLine (w := phDspLatchRead) hc clean phase rfl (by decide) script rfl
  refine ⟨?_, fun unmapped => ?_⟩
  · rintro h j entry rfl
    obtain ⟨pos, small⟩ := bounds_of_jumpEntry entry
    obtain ⟨source, -⟩ := source_of_handler h small pos
    have first := latch.trans (exec_dspLatchRead_source _ source)
    obtain ⟨u, run, phase, pc, after, bank0, unfaulted⟩ := Reaches.cons first ⟨rfl, rfl⟩ rfl
      (reaches_from_tableLo hc clean entry rfl rfl rfl)
    exact ⟨u, run, phase, pc, after.history, after.frames, bank0, unfaulted⟩
  · have first := latch.trans (exec_dspLatchRead_unmapped _ unmapped)
    exact ⟨_, run_succ first, rfl, run_into_fault first hc rfl rfl rfl⟩

end Sys2Proof.Proofs.DispatchRun

/-! PROOFS. The handlers' micro-steps, each as its whole next state (44_handlers.md R115 to R123),
and what a handler step can do at all (R113, R114). -/

namespace Sys2Proof.Proofs.HandlerSteps

open Sys2Proof Sys2Proof.Machine Sys2Proof.Proofs.StepEvent Sys2Proof.Proofs.Invariant
  Sys2Proof.Proofs.SerialIO Sys2Proof.Proofs.BusRows

/-! ### The disk handlers and serial 1 -/

theorem exec_handler10 (s : State) : exec .handler10Fdc0Drq s = .next (handlerExit { s with
    sectorPtr := if s.cfg.sector then s.sectorPtr + 1 else s.sectorPtr }) := rfl

/-- Settles O26: `exec_handler10`, the sum of words being the sum of numbers modulo 2^16. -/
theorem handlerFdc0DrqCountsSector : Obligations.HandlerFdc0DrqCountsSector := by
  refine ⟨fun _ => rfl, fun s => ⟨fun sector => ?_, fun no_sector => ?_⟩⟩
  · have counted : BitVec.ofNat 16 (s.sectorPtr.toNat + 1) = s.sectorPtr + 1 := by
      simp [BitVec.ofNat_add]
    rw [exec_handler10, if_pos sector, counted]
    rfl
  · rw [exec_handler10, no_sector]
    rfl

/-- The handlers that do nothing but exit, each with its phase word (R116, R117, R118, R123). -/
inductive NoOpHandler : PhaseWord → Instr → Prop
  | fdc1Drq : NoOpHandler 0x02A .handler20Fdc1Drq
  | fdc0Irq : NoOpHandler 0x03A .handler30Fdc0Irq
  | fdc1Irq : NoOpHandler 0x04A .handler40Fdc1Irq
  | ser1 : NoOpHandler 0x06A .handler60Ser1

theorem NoOpHandler.row {w : PhaseWord} {i : Instr} (h : NoOpHandler w i) (v : StepVals) :
    decodePhase w v = .ok i := by
  cases h <;> rfl

theorem NoOpHandler.exec_eq {w : PhaseWord} {i : Instr} (h : NoOpHandler w i) (s : State) :
    exec i s = .next (handlerExit s) := by
  cases h <;> rfl

/-- Settles O27: each of the four is `handlerExit` and nothing before it. -/
theorem noOpHandlersRestore : Obligations.NoOpHandlersRestore :=
  ⟨fun v => ⟨NoOpHandler.fdc1Drq.row v, NoOpHandler.fdc0Irq.row v, NoOpHandler.fdc1Irq.row v,
      NoOpHandler.ser1.row v⟩,
    fun s => ⟨NoOpHandler.fdc1Drq.exec_eq s, NoOpHandler.fdc0Irq.exec_eq s,
      NoOpHandler.fdc1Irq.exec_eq s, NoOpHandler.ser1.exec_eq s⟩⟩

/-! ### The polls of serial 0 -/

/-- The two polls of the serial-0 handler: the row, the status mask it waits for, its own phase
word, and the phase word a ready status leads to (R119, R121). -/
inductive SerialPoll : (Byte → Instr) → Byte → PhaseWord → PhaseWord → Prop
  | rx : SerialPoll .handler50Ser0RxPoll 0x08 (handlerWord 5 0) (handlerWord 5 1)
  | tx : SerialPoll .handler52Ser0TxPoll 0x10 (handlerWord 5 2) (handlerWord 5 3)

section
variable {poll : Byte → Instr} {mask : Byte} {wait ready : PhaseWord}
  (hp : SerialPoll poll mask wait ready)
include hp

theorem SerialPoll.row (v : StepVals) : decodePhase wait v = .ok (poll v.status) := by
  cases hp <;> rfl

theorem SerialPoll.isHandler_wait : isHandler wait = true := by
  cases hp <;> rfl

theorem SerialPoll.exists_handlerWord : ∃ st, ready = handlerWord 5 st := by
  cases hp <;> exact ⟨_, rfl⟩

theorem SerialPoll.phaseHandler_wait : phaseHandler wait = 5 := by
  cases hp <;> rfl

variable {s : State} (hc : admitted s.cfg = true) {v : Byte}
include hc

/-- A poll records the status it read, and then goes by the mask (40_serialio.md R82, R87). -/
theorem exec_poll : exec (poll v) s =
    (if v &&& mask ≠ 0 then
      Flow.go { s.emit (statusRead s.cfg v) with spins := 0, phase := ready }
    else (spinCheck (s.emit (statusRead s.cfg v)) v).andThen fun t =>
      .go { t with phase := wait }).toOut := by
  cases hp with
  | rx =>
    simp only [exec, execHandler50Ser0RxPoll, pollStatus_eq hc, rxFull, decide_eq_true_eq]
    rfl
  | tx =>
    simp only [exec, execHandler52Ser0TxPoll, pollStatus_eq hc, txEmpty, decide_eq_true_eq]
    rfl

theorem exec_poll_ready (set : v &&& mask ≠ 0) : exec (poll v) s =
    .next { s.emit (statusRead s.cfg v) with spins := 0, phase := ready } := by
  rw [exec_poll hp hc, if_pos set, toOut_go]

theorem exec_poll_unready (clear : v &&& mask = 0) : exec (poll v) s =
    ((spinCheck (s.emit (statusRead s.cfg v)) v).andThen fun t =>
      .go { t with phase := wait }).toOut := by
  rw [exec_poll hp hc, if_neg (not_not_intro clear)]

theorem exec_poll_unlimited (clear : v &&& mask = 0) (unlimited : s.cfg.maxSpins = none) :
    exec (poll v) s = .next { s.emit (statusRead s.cfg v) with phase := wait } := by
  rw [exec_poll_unready hp hc clear,
    spinCheck_unlimited (s := s.emit (statusRead s.cfg v)) unlimited]
  rfl

theorem exec_poll_below (clear : v &&& mask = 0) {n : Nat} (limit : s.cfg.maxSpins = some n)
    (below : s.spins + 1 < n) : exec (poll v) s =
      .next { s.emit (statusRead s.cfg v) with spins := s.spins + 1, phase := wait } := by
  rw [exec_poll_unready hp hc clear,
    spinCheck_below (s := s.emit (statusRead s.cfg v)) limit below]
  rfl

theorem exec_poll_reached (clear : v &&& mask = 0) {n : Nat} (limit : s.cfg.maxSpins = some n)
    (reached : n ≤ s.spins + 1) : exec (poll v) s = .next
      (raise { s.emit (statusRead s.cfg v) with spins := s.spins + 1 } .spinLimit v.toNat) := by
  rw [exec_poll_unready hp hc clear,
    spinCheck_reached (s := s.emit (statusRead s.cfg v)) limit reached]
  rfl

end

/-- Settles O28: the cases of a poll, at HANDLER(5,0). -/
theorem ser0RxPollWaitsForRxFull : Obligations.Ser0RxPollWaitsForRxFull :=
  ⟨SerialPoll.rx.row, fun s _ hc => ⟨exec_poll_ready .rx hc, exec_poll_unlimited .rx hc,
    fun clear _ => exec_poll_below .rx hc clear,
    fun clear _ limit reached => ⟨s.spins + 1, exec_poll_reached .rx hc clear limit reached⟩⟩⟩

/-- Settles O29: the cases of a poll, at HANDLER(5,2). -/
theorem ser0TxPollWaitsForTxEmpty : Obligations.Ser0TxPollWaitsForTxEmpty :=
  ⟨SerialPoll.tx.row, fun s _ hc => ⟨exec_poll_ready .tx hc, exec_poll_unlimited .tx hc,
    fun clear _ => exec_poll_below .tx hc clear,
    fun clear _ limit reached => ⟨s.spins + 1, exec_poll_reached .tx hc clear limit reached⟩⟩⟩

/-! ### The data steps of serial 0 -/

section
variable {s : State} (hc : admitted s.cfg = true)
include hc

theorem exec_handler51 (v : Byte) : exec (.handler51Ser0RxRead v) s =
    .next { s.emit (.rd s.cfg.uartBase v) with rx := v, phase := handlerWord 5 2 } := by
  have device : readValue s .uart (uartData s.cfg) v = some v := rfl
  simp only [exec, execHandler51Ser0RxRead, addrTarget_uartData s.cfg hc,
    readThen_of_value _ device, afterRead_uart]
  rfl

theorem exec_handler53 : exec .handler53Ser0TxWrite s =
    .next (handlerExit (s.emit (.wr s.cfg.uartBase s.rx))) := by
  simp only [exec, execHandler53Ser0TxWrite, memWrite, addrTarget_uartData s.cfg hc]
  rfl

end

/-- Settles O30: `exec_handler51` and `exec_handler53`. -/
theorem ser0DataReadAndWrite : Obligations.Ser0DataReadAndWrite :=
  ⟨fun _ => ⟨rfl, rfl⟩, fun _ v hc => ⟨exec_handler51 hc v, exec_handler53 hc⟩⟩

/-! ### What a handler step can do -/

/-- The next states of a handler step: the exit to the restore path, another step of serial 0, or
SPIN_LIMIT. Beside the position, a handler writes the history, the sector counter, `rx`, the count
and the fault record (R113, R114). -/
inductive HandlerStep (s : State) : State → Prop
  | exits {history sectorPtr} :
    HandlerStep s (handlerExit { s with history := history, sectorPtr := sectorPtr })
  | goesOn {history rx spins st} (serial : phaseHandler s.phase = 5) :
    HandlerStep s { s with
      history := history, rx := rx, spins := spins, phase := handlerWord 5 st }
  | limit {history spins} (limited : s.cfg.maxSpins ≠ none) :
    HandlerStep s { s with
      history := history, spins := spins, fault := some .spinLimit,
      phase := faultWord .spinLimit }

theorem handlerStep_of_poll {s t : State} {poll : Byte → Instr} {mask v : Byte}
    {ready : PhaseWord} (hp : SerialPoll poll mask s.phase ready) (hc : admitted s.cfg = true)
    (ht : exec (poll v) s = .next t) : HandlerStep s t := by
  have serial := hp.phaseHandler_wait
  have stays : s.phase = handlerWord 5 (phaseStep s.phase) := by
    rw [← serial, (handlerPhase_of_isHandler hp.isHandler_wait).word]
  obtain ⟨st, rfl⟩ := hp.exists_handlerWord
  by_cases clear : v &&& mask = 0
  · cases limit : s.cfg.maxSpins with
    | none =>
      cases (exec_poll_unlimited hp hc clear limit).symm.trans ht
      exact stays ▸ .goesOn serial
    | some n =>
      by_cases reached : n ≤ s.spins + 1
      · cases (exec_poll_reached hp hc clear limit reached).symm.trans ht
        exact .limit (by simp [limit])
      · cases (exec_poll_below hp hc clear limit (Nat.not_le.mp reached)).symm.trans ht
        exact stays ▸ .goesOn serial
  · cases (exec_poll_ready hp hc clear).symm.trans ht
    exact .goesOn serial

/-- The single step event at a handler word, over the nine rows of 30_encoding.md R66. -/
theorem handlerStep_of_evStep {s t : State} {d : Draws} (hc : admitted s.cfg = true)
    (clean : s.fault = none) (hh : isHandler s.phase = true)
    (ht : exec (.evStep .once d) s = .next t) : HandlerStep s t := by
  have word := handlerPhase_of_isHandler hh
  have row : ∀ {i}, decodePhase s.phase (stepVals d s) = .ok i → exec i s = .next t := fun hi =>
    (stepEventRunsPhaseWord s d _ ⟨clean, word.no_fault⟩ word.not_idle hi).1.symm.trans ht
  have noOp : ∀ {w i}, NoOpHandler w i → s.phase = w → HandlerStep s t := by
    rintro w i h rfl
    cases (h.exec_eq s).symm.trans (row (h.row _))
    exact .exits
  have polls : ∀ {poll mask w ready}, SerialPoll poll mask w ready → s.phase = w →
      HandlerStep s t := by
    rintro poll mask w ready h rfl
    exact handlerStep_of_poll h hc (row (h.row _))
  simp only [isHandler, List.contains_iff_mem, List.mem_cons, List.not_mem_nil, or_false] at hh
  rcases hh with phase | phase | phase | phase | phase | phase | phase | phase | phase
  · cases (exec_handler10 s).symm.trans (row (by rw [phase]; rfl))
    exact .exits
  · exact noOp .fdc1Drq phase
  · exact noOp .fdc0Irq phase
  · exact noOp .fdc1Irq phase
  · exact polls .rx phase
  · cases (exec_handler51 hc (stepVals d s).data).symm.trans (row (by rw [phase]; rfl))
    exact .goesOn (by rw [phase]; rfl)
  · exact polls .tx phase
  · cases (exec_handler53 hc).symm.trans (row (by rw [phase]; rfl))
    exact .exits
  · exact noOp .ser1 phase

theorem phaseHandler_handlerWord_five (st : BitVec 2) : phaseHandler (handlerWord 5 st) = 5 := by
  revert st; decide

/-- Settles O31: each way a handler step can go writes none of the fields named. -/
theorem handlerStepsStayOrRestore : Obligations.HandlerStepsStayOrRestore := by
  intro s t d hc clean hh ht
  cases handlerStep_of_evStep hc clean hh ht with
  | exits =>
    exact ⟨.inl ⟨rfl, rfl, clean⟩, rfl, rfl, rfl, rfl, rfl, rfl, rfl, rfl, rfl, rfl⟩
  | @goesOn _ _ _ st serial =>
    have same : phaseHandler (handlerWord 5 st) = phaseHandler s.phase := by
      rw [phaseHandler_handlerWord_five, serial]
    exact ⟨.inr (.inl ⟨isHandler_handlerWord_five st, same, rfl, clean⟩),
      rfl, rfl, rfl, rfl, rfl, rfl, rfl, rfl, rfl, rfl⟩
  | limit limited =>
    exact ⟨.inr (.inr ⟨rfl, limited⟩), rfl, rfl, rfl, rfl, rfl, rfl, rfl, rfl, rfl, rfl⟩

end Sys2Proof.Proofs.HandlerSteps

/-! PROOFS. The serial-0 handler as a whole (44_handlers.md R124): a wait, the read, a wait, the
write, one line each. -/

namespace Sys2Proof.Proofs.SerialEcho

open Sys2Proof Sys2Proof.Machine Sys2Proof.Proofs.Invariant Sys2Proof.Proofs.Restoration
  Sys2Proof.Proofs.WithBank0 Sys2Proof.Proofs.SerialIO Sys2Proof.Proofs.DispatchRun
  Sys2Proof.Proofs.HandlerSteps

/-- The lines `ls`, and then the lines `ls'`. -/
theorem run_append {ls ls' : List Line} {s t u : State} (h : core.run ls.length s = .next t)
    (h' : core.run ls'.length t = .next u) : core.run (ls ++ ls').length s = .next u := by
  rw [List.length_append, run_add h, h']

/-- A single step with one STATUS draw. -/
def pollLine (v : Byte) : Line := .event 5 { draws := { status := [v] } }

/-- `v` with a wait of these statuses behind it, the last of them ready, and the lines `ls` to come
(R119, R121). -/
def waited (v : State) (statuses : List Byte) (ls : List Line) (ready : PhaseWord) : State :=
  { played v statuses.length ls (statuses.map (statusRead v.cfg)) with spins := 0, phase := ready }

theorem waited_cons (v : State) (w : Byte) (ws : List Byte) (ls ls' : List Line)
    (ready : PhaseWord) : waited (played v 1 ls' [statusRead v.cfg w]) ws ls ready =
      waited v (w :: ws) ls ready := by
  simp only [waited, played, List.length_cons, List.map_cons, List.append_assoc, List.cons_append,
    List.nil_append, Nat.add_assoc, Nat.add_comm 1]

/-- A single step with one DATA draw. -/
def dataLine (r : Byte) : Line := .event 5 { draws := { data := [r] } }

/-- `v` with the byte `r` read from DATA, and the lines `ls` to come (R120). -/
def received (v : State) (r : Byte) (ls : List Line) : State :=
  { played v 1 ls [.rd v.cfg.uartBase r] with rx := r, phase := handlerWord 5 2 }

/-- `v` with `rx` written to DATA and the handler left, and the lines `ls` to come (R122). -/
def sent (v : State) (ls : List Line) : State :=
  handlerExit (played v 1 ls [.wr v.cfg.uartBase v.rx])

@[simp] theorem waited_cfg (v : State) (statuses : List Byte) (ls : List Line)
    (ready : PhaseWord) : (waited v statuses ls ready).cfg = v.cfg := rfl
@[simp] theorem waited_fault (v : State) (statuses : List Byte) (ls : List Line)
    (ready : PhaseWord) : (waited v statuses ls ready).fault = v.fault := rfl
@[simp] theorem waited_frames (v : State) (statuses : List Byte) (ls : List Line)
    (ready : PhaseWord) : (waited v statuses ls ready).frames = v.frames := rfl
@[simp] theorem waited_bank0 (v : State) (statuses : List Byte) (ls : List Line)
    (ready : PhaseWord) : (waited v statuses ls ready).bank0 = v.bank0 := rfl
@[simp] theorem received_cfg (v : State) (r : Byte) (ls : List Line) :
    (received v r ls).cfg = v.cfg := rfl
@[simp] theorem received_fault (v : State) (r : Byte) (ls : List Line) :
    (received v r ls).fault = v.fault := rfl
@[simp] theorem received_frames (v : State) (r : Byte) (ls : List Line) :
    (received v r ls).frames = v.frames := rfl
@[simp] theorem received_bank0 (v : State) (r : Byte) (ls : List Line) :
    (received v r ls).bank0 = v.bank0 := rfl
@[simp] theorem sent_frames (v : State) (ls : List Line) : (sent v ls).frames = v.frames := rfl
@[simp] theorem sent_bank0 (v : State) (ls : List Line) : (sent v ls).bank0 = v.bank0 := rfl

section
variable {v : State} {ls : List Line} (hc : admitted v.cfg = true) (clean : v.fault = none)
include hc clean

/-- A step line at a handler word is its row (30_encoding.md R65). -/
theorem step_of_handlerLine {w : PhaseWord} {d : Draws} {i : Instr} (phase : v.phase = w)
    (hw : isHandler w = true) (script : v.script = .event 5 { draws := d } :: ls)
    (row : decodePhase w (stepVals d (taken v ls)) = .ok i) : step v = exec i (taken v ls) :=
  have word := handlerPhase_of_isHandler hw
  step_of_stepLine hc clean phase word.no_fault word.not_idle script row

section
variable {poll : Byte → Instr} {mask : Byte} {wait ready : PhaseWord}
  (hp : SerialPoll poll mask wait ready) (phase : v.phase = wait)
include hp phase

theorem step_poll {x : Byte} (script : v.script = pollLine x :: ls) :
    step v = exec (poll x) (taken v ls) :=
  step_of_handlerLine hc clean phase hp.isHandler_wait script (hp.row _)

/-- An unready poll without a limit only records its status. -/
theorem step_poll_unready {x : Byte} (script : v.script = pollLine x :: ls)
    (clear : x &&& mask = 0) (unlimited : v.cfg.maxSpins = none) :
    step v = .next (played v 1 ls [statusRead v.cfg x]) := by
  subst phase
  rw [step_poll hc clean hp rfl script,
    exec_poll_unlimited (s := taken v ls) hp hc clear unlimited]
  rfl

/-- A wait, however long, records its statuses and ends where its ready one leads. -/
theorem run_wait {ws : List Byte} {r : Byte} (clear : ∀ x ∈ ws, x &&& mask = 0)
    (set : r &&& mask ≠ 0) (unlimited : v.cfg.maxSpins = none)
    (script : v.script = (ws ++ [r]).map pollLine ++ ls) :
    core.run ((ws ++ [r]).map pollLine).length v = .next (waited v (ws ++ [r]) ls ready) := by
  induction ws generalizing v with
  | nil =>
    exact run_succ ((step_poll hc clean hp phase script).trans
      (exec_poll_ready (s := taken v ls) hp hc set))
  | cons w ws ih =>
    rw [List.forall_mem_cons] at clear
    obtain ⟨unready, later⟩ := clear
    have first := step_poll_unready hc clean hp phase script unready unlimited
    have others := ih (v := played v 1 ((ws ++ [r]).map pollLine ++ ls) [statusRead v.cfg w])
      hc clean phase later unlimited rfl
    rw [waited_cons] at others
    exact (run_succ first).trans others

end

theorem step_dataRead {r : Byte} (phase : v.phase = handlerWord 5 1)
    (script : v.script = dataLine r :: ls) : step v = .next (received v r ls) :=
  (step_of_handlerLine hc clean phase rfl script rfl).trans
    (exec_handler51 (s := taken v ls) hc r)

theorem step_dataWrite (phase : v.phase = handlerWord 5 3)
    (script : v.script = .event 5 {} :: ls) : step v = .next (sent v ls) :=
  (step_of_handlerLine hc clean phase rfl script rfl).trans (exec_handler53 (s := taken v ls) hc)

/-- The receive half: a wait for rx-full, and the DATA read (R119, R120). -/
theorem run_receive {ws : List Byte} {ready r : Byte} (phase : v.phase = handlerWord 5 0)
    (clear : ∀ x ∈ ws, x &&& 0x08 = 0) (set : ready &&& 0x08 ≠ 0)
    (unlimited : v.cfg.maxSpins = none)
    (script : v.script = (ws ++ [ready]).map pollLine ++ ([dataLine r] ++ ls)) :
    core.run ((ws ++ [ready]).map pollLine ++ [dataLine r]).length v = .next
      (received (waited v (ws ++ [ready]) ([dataLine r] ++ ls) (handlerWord 5 1)) r ls) :=
  run_append (run_wait hc clean .rx phase clear set unlimited script)
    (run_succ (step_dataRead (v := waited v _ _ _) hc clean rfl rfl))

/-- The transmit half: a wait for tx-empty, and the DATA write (R121, R122). -/
theorem run_transmit {ws : List Byte} {ready : Byte} (phase : v.phase = handlerWord 5 2)
    (clear : ∀ x ∈ ws, x &&& 0x10 = 0) (set : ready &&& 0x10 ≠ 0)
    (unlimited : v.cfg.maxSpins = none)
    (script : v.script = (ws ++ [ready]).map pollLine ++ ([Line.event 5 {}] ++ ls)) :
    core.run ((ws ++ [ready]).map pollLine ++ [Line.event 5 {}]).length v = .next
      (sent (waited v (ws ++ [ready]) ([.event 5 {}] ++ ls) (handlerWord 5 3)) ls) :=
  run_append (run_wait hc clean .tx phase clear set unlimited script)
    (run_succ (step_dataWrite (v := waited v _ _ _) hc clean rfl rfl))

end

/-- Settles O58: the receive half and then the transmit half, which sends the `rx` it was left. -/
theorem serialEchoRoundTrip : Obligations.SerialEchoRoundTrip := by
  intro s rxWait txWait rxReady txReady r rest hc unlimited clean phase rxClear rxSet txClear txSet
    poll lines status script
  have halves : lines = ((rxWait ++ [rxReady]).map pollLine ++ [dataLine r]) ++
      ((txWait ++ [txReady]).map pollLine ++ [.event 5 {}]) := List.append_assoc ..
  rw [halves, List.append_assoc, List.append_assoc, List.append_assoc] at script
  rw [halves]
  have receive := run_receive hc clean phase rxClear rxSet unlimited script
  have whole := run_append receive (run_transmit (by simpa using hc) (by simpa using clean) rfl
    txClear txSet (by simpa using unlimited) rfl)
  exact ⟨_, whole, rfl, rfl, by simp, by simp, rfl, rfl⟩

end Sys2Proof.Proofs.SerialEcho

/-! PROOFS. The four Restoring micro-steps, each as its whole next state (45_restore.md R126 to R129). -/

namespace Sys2Proof.Proofs.RestoringSteps

open Sys2Proof Sys2Proof.Machine

/-- BANK0 takes every byte written to it (20_memory.md R46). -/
theorem busWrite_bank0 (s : State) (a : Addr) (v : Byte) :
    busWrite s .bank0 a v = .go { s.emit (.wr a v) with bank0 := some v } := rfl

section
variable {s : State} {f : Frame}

/-! ### The two return positions -/

theorem returnFromInterrupt_prog (rest : List Frame) {pc : Addr} (h : f.ret = .prog pc) :
    returnFromInterrupt s f rest =
      { s with p := f.p, frames := rest, pc := pc, phase := phIdle } := by
  rw [returnFromInterrupt, h]

theorem returnFromInterrupt_hnd (rest : List Frame) {h : BitVec 3} {st : BitVec 2} {rx : Byte}
    {spins : Nat} (hret : f.ret = .hnd h st rx spins) :
    returnFromInterrupt s f rest =
      { s with p := f.p, frames := rest, rx := rx, spins := spins, phase := handlerWord h st } := by
  rw [returnFromInterrupt, hret]

/-! ### The micro-steps on a top frame -/

variable {rest : List Frame}

theorem exec_rstBankWrite (h : s.frames = f :: rest) :
    exec .rstBankWrite s = .next { s.emit (.wr bank0Addr f.bank) with
      bank0 := some f.bank, phase := if s.cfg.kstack then phRstKstackRestore else phRstPop } := by
  simp only [exec, execRstBankWrite, withTop_cons _ h, busWrite_bank0, andThen_go, toOut_go]

theorem exec_rstKstackRestore (h : s.frames = f :: rest) (hk : s.cfg.kstack = true) :
    exec .rstKstackRestore s = .next { s with sp := f.sp, ssel := f.ssel, phase := phRstPop } := by
  simp only [exec, execRstKstackRestore, if_pos hk, withTop_cons _ h, toOut_go]

theorem exec_rstKstackRestore_absent (hk : s.cfg.kstack = false) :
    exec .rstKstackRestore s = .refused .kstackAbsent := by
  simp only [exec, execRstKstackRestore, hk, Bool.false_eq_true, if_false]

theorem exec_rstPop (h : s.frames = f :: rest) :
    exec .rstPop s = .next { s with a := f.a, x := f.x, y := f.y, phase := phRstRti } := by
  simp only [exec, execRstPop, withTop_cons _ h, toOut_go]

theorem exec_rstRti (h : s.frames = f :: rest) :
    exec .rstRti s = .next (returnFromInterrupt s f rest) := by
  simp only [exec, execRstRti, withTop_cons _ h, toOut_go]

end

/-- Settles O32: `exec_rstBankWrite`. -/
theorem rstBankWriteRestoresSelector : Obligations.RstBankWriteRestoresSelector :=
  ⟨fun _ => rfl, fun _ _ _ h => exec_rstBankWrite h⟩

/-- Settles O33: the step with KSTACK, and its refusal without, whatever the frames. -/
theorem rstKstackRestoreRestoresStack : Obligations.RstKstackRestoreRestoresStack :=
  ⟨fun _ => rfl, fun _ _ _ h => ⟨exec_rstKstackRestore h, exec_rstKstackRestore_absent⟩⟩

/-- Settles O34: `exec_rstPop`. -/
theorem rstPopRestoresRegisters : Obligations.RstPopRestoresRegisters :=
  ⟨fun _ => rfl, fun _ _ _ h => exec_rstPop h⟩

/-- Settles O35: the return is taken up by the frame's position, the program's or a handler's. -/
theorem rstRtiReturns : Obligations.RstRtiReturns := by
  refine ⟨fun _ => rfl, fun s f rest top => ⟨fun pc ret => ?_, fun h st rx spins ret => ?_⟩⟩
  · rw [exec_rstRti top, returnFromInterrupt_prog rest ret]
    rfl
  · rw [exec_rstRti top, returnFromInterrupt_hnd rest ret]
    rfl

end Sys2Proof.Proofs.RestoringSteps

/-! PROOFS. The exceptions (60_exceptions.md): NMI leaves the block alone (R137), and what a step can do
to the frame stack (R145, 10_state.md R22). -/

namespace Sys2Proof.Proofs.Exceptions

open Sys2Proof Sys2Proof.Machine Sys2Proof.Proofs.MicroSteps Sys2Proof.Proofs.Effects
  Sys2Proof.Proofs.Writers Sys2Proof.Proofs.WithBank0

/-- Settles O42: `exec_evNmi_running`, which asks nothing of the mask or the phase. -/
theorem nmiChangesNothingElse : Obligations.NmiChangesNothingElse :=
  ⟨fun _ => rfl, fun _ hc hr => exec_evNmi_running hc rfl hr⟩

/-! ### The frame stack -/

/-- How the frames of `t` come from those of `s`, with where each change happens. -/
inductive FrameChange (s t : State) : Prop
  | kept (frames : t.frames = s.frames)
  | emptied (frames : t.frames = []) (reset : Event.reset ∈ t.history.drop s.history.length)
  | pushed {f ret} (frames : t.frames = f :: s.frames) (p : f.p = s.p)
    (phase : t.phase = phEntSave) (room : s.frames.length ≠ s.cfg.maxDepth)
    (point : AcceptanceAt s ret f.brk)
  | topWritten {f g rest} (before : s.frames = f :: rest) (after : t.frames = g :: rest)
    (phase : s.phase = phEntSave ∨ s.phase = phEntBankRead)
    (fixed : g.ret = f.ret ∧ g.p = f.p ∧ g.brk = f.brk)
  | popped {f} (phase : s.phase = phRstRti) (frames : s.frames = f :: t.frames) (p : t.p = f.p)

/-- Of the micro-steps only ENT_SAVE and ENT_BANK_READ write the top frame and RST_RTI pops it
(42_entry.md R100, R101, 45_restore.md R129). -/
theorem frameChange_of_microStep {s t : State} (h : MicroStep s t) : FrameChange s t := by
  cases h with
  | entSave phase frames => exact .topWritten frames rfl (.inl phase) ⟨rfl, rfl, rfl⟩
  | entBankRead phase frames => exact .topWritten frames rfl (.inr phase) ⟨rfl, rfl, rfl⟩
  | tableLo | tableHi => exact .kept (by simp)
  | @rstRti f rest phase frames =>
    obtain ⟨pc, rx, spins, w, h⟩ := returnFromInterrupt_eq s f rest
    rw [h]
    exact .popped phase frames rfl
  | _ => exact .kept rfl

/-- Beside those, acceptance pushes a frame and a reset empties the stack; the program's steps, NMI and
an overflow leave it alone. -/
theorem frameChange_of_effect {s t : State} (h : Effect s t) : FrameChange s t := by
  cases h with
  | nothing => exact .kept rfl
  | program _ step => exact .kept step.keeps.frames
  | reset d => exact .emptied rfl (reset_mem_of_resetState d s)
  | accept _ point room => exact .pushed rfl rfl rfl room point
  | overflow => exact .kept rfl
  | nmi => exact .kept rfl
  | micro _ step => exact frameChange_of_microStep step

/-- Settles O56: the change each effect makes to the frames. -/
theorem framesChangeOnlyOnTop : Obligations.FramesChangeOnlyOnTop := by
  intro s t h
  obtain ⟨-, -, s', t', ⟨_, _, rfl⟩, he, ⟨_, _, rfl⟩⟩ := step_cases h
  cases frameChange_of_effect he with
  | kept frames => exact .inl frames
  | emptied frames reset => exact .inr (.inl ⟨frames, reset⟩)
  | pushed frames p phase room point =>
    refine .inr (.inr (.inl ⟨_, frames, p, phase, room, ?_⟩))
    rcases point with ⟨idle, -⟩ | ⟨handler, nest, unmasked, brk, -⟩
    · exact .inl idle
    · exact .inr ⟨handler, nest, unmasked, brk⟩
  | topWritten before after phase fixed =>
    exact .inr (.inr (.inr (.inl ⟨_, _, _, before, after, phase, fixed⟩)))
  | popped phase frames p => exact .inr (.inr (.inr (.inr ⟨phase, _, frames, p⟩)))

end Sys2Proof.Proofs.Exceptions

/-! PROOFS. The reset event as a whole next state (70_reset_and_hazards.md R154), and zero-fill: the
program's writes of one byte to a list of plain addresses, and the memory they leave (R156). -/

namespace Sys2Proof.Proofs.ResetAndZeroFill

open Sys2Proof Sys2Proof.Machine Sys2Proof.Proofs.StepEvent Sys2Proof.Proofs.LinesAndReset
  Sys2Proof.Proofs.BusRows

/-! ### The reset event -/

theorem exec_evReset_running {s : State} (hr : Running s) (d : ResetDraws) :
    exec (.evReset d) s = .next (resetState d s) := by
  simp only [exec, execEvReset, stopped_of_running hr]

/-- A draw is the line's value where the line supplies one (30_encoding.md R78; log 13). -/
theorem getD_eq_of_supplied {α : Type} {draw : Option α} (free : α) (v : α) (h : draw = some v) :
    draw.getD free = v := by
  rw [h, Option.getD_some]

/-- Settles O37: `stateAfterReset` for PC and the events, the definition of `resetState` for every other
field; an SP draw that fits is not truncated. -/
theorem resetEventResetsState : Obligations.ResetEventResetsState := by
  refine ⟨fun p => rfl, fun s d hc hr fits => ?_⟩
  have next := exec_evReset_running hr d
  obtain ⟨⟨-, -, pc, -⟩, events⟩ := (stateAfterReset s.cfg hc).2 s _ d rfl next
  have whole : resetState d s =
      { resetState d s with history := (resetState d s).history, pc := (resetState d s).pc } := rfl
  rw [pc, events] at whole
  rw [next, whole]
  refine ⟨_, _, _, _, _, _, _, _, _, _, _, _, _, getD_eq_of_supplied _, getD_eq_of_supplied _,
    getD_eq_of_supplied _, getD_eq_of_supplied _, fun v hv => ?_, Nat.mod_lt _ (Nat.two_pow_pos _),
    getD_eq_of_supplied _, rfl⟩
  rw [getD_eq_of_supplied _ v hv, Nat.mod_eq_of_lt (fits v hv)]

/-! ### Writing one byte to many locations -/

/-- A memory after a write of `v` to each of `locs`, in order. -/
def filled (m : Memory) (v : Byte) (locs : List Nat) : Memory :=
  locs.foldl (fun m loc => Memory.write m loc v) m

theorem filled_cons (m : Memory) (v : Byte) (loc : Nat) (locs : List Nat) :
    filled m v (loc :: locs) = filled (Memory.write m loc v) v locs := rfl

/-- Whatever their order and however often one occurs, the locations hold `v`, and the others are left
alone. -/
theorem lookup_filled (m : Memory) (v : Byte) (locs : List Nat) (loc : Nat) :
    Memory.lookup (filled m v locs) loc = if loc ∈ locs then some v else Memory.lookup m loc := by
  induction locs generalizing m with
  | nil => rfl
  | cons first rest ih =>
    rw [filled_cons, ih]
    by_cases later : loc ∈ rest
    · simp [later]
    · by_cases here : loc = first
      · subst here; simp
      · simp [later, here, lookup_write_other _ _ _ _ here]

theorem byteAt_filled (s : State) (v : Byte) (locs : List Nat) (loc : Nat) (w : Byte) :
    ({ s with mem := filled s.mem v locs } : State).byteAt loc w =
      if loc ∈ locs then v else s.byteAt loc w := by
  simp only [State.byteAt, lookup_filled]
  by_cases h : loc ∈ locs
  · simp only [if_pos h]
  · simp only [if_neg h]

/-! ### The program's writes of plain memory -/

/-- The selector holds `b`, if anything was written to it. -/
def Selects (s : State) (b : Byte) : Prop := ∀ c, s.bank0 = some c → c = b

/-- The state after writes of `v` to the addresses `as`, page `b` selected. -/
def written (s : State) (b v : Byte) (as : List Addr) : State :=
  { s with history := s.history ++ as.map (.wr · v),
           mem := filled s.mem v (as.map (plainByteLoc s.cfg b)) }

/-- A write that reaches plain memory records its event and stores its byte, in the selected page or
outside the window (20_memory.md R44, R45). -/
theorem runOp_wr_of_reaches {s : State} {b : Byte} (sel : Selects s b) {a : Addr}
    (h : reaches s a) (v : Byte) :
    runOp s (.wr a v) = .go ((s.emit (.wr a v)).storeByte (plainByteLoc s.cfg b a) v) := by
  have access : runOp s (.wr a v) = busWrite s (addrTarget s.cfg a) a v := rfl
  rw [access]
  rcases h with plain | ⟨window, c, hc, page⟩
  · simp only [plain, busWrite, plainByteLoc, reduceCtorEq, if_false]
  · obtain rfl := sel c hc
    simp only [window, busWrite, writePage_of_written hc, if_pos page, plainByteLoc, if_true]

/-- Each write leaves the selector and the configuration alone, so the next ones still reach their
bytes. -/
theorem runOps_writes {s : State} {b : Byte} (sel : Selects s b) (v : Byte) (as : List Addr)
    (h : ∀ a ∈ as, reaches s a) : runOps (as.map (.wr · v)) s = .go (written s b v as) := by
  induction as generalizing s with
  | nil => simp [runOps, written, filled]
  | cons a rest ih =>
    obtain ⟨here, later⟩ := List.forall_mem_cons.mp h
    rw [List.map_cons, runOps, runOp_wr_of_reaches sel here v, andThen_go,
      ih (s := (s.emit (.wr a v)).storeByte (plainByteLoc s.cfg b a) v) sel later]
    simp only [written, List.map_cons, filled_cons, storeByte_history, emit_history,
      List.append_assoc]
    rfl

theorem exec_idle_of_runOps {ops : List ProgOp} {s t : State} (h : runOps ops s = .go t) :
    exec (.idle ops) s = .next t := by
  simp only [exec, execIdle, opsStep, h, precise, toOut_go]

/-! ### Zero-fill -/

/-- The addresses of the zero-fill range, rising (70_reset_and_hazards.md R156). -/
def zeroFillAddrs (cfg : Cfg) : List Addr :=
  (List.range cfg.zfLen).map fun i => cfg.zfBase + BitVec.ofNat 16 i

theorem forall_mem_zeroFillAddrs {cfg : Cfg} {P : Addr → Prop} :
    (∀ a ∈ zeroFillAddrs cfg, P a) ↔ ∀ i < cfg.zfLen, P (cfg.zfBase + BitVec.ofNat 16 i) := by
  simp [zeroFillAddrs]

theorem zeroFillOps_eq (cfg : Cfg) : zeroFillOps cfg = (zeroFillAddrs cfg).map (.wr · 0x00) := by
  rw [zeroFillAddrs, List.map_map]
  rfl

/-- Settles O59: `runOps_writes` over the range, and `byteAt_filled` for the memory it leaves. -/
theorem zeroFillClearsRange : Obligations.ZeroFillClearsRange := by
  intro s b sel reach
  have run : runOps (zeroFillOps s.cfg) s = .go (written s b 0x00 (zeroFillAddrs s.cfg)) := by
    rw [zeroFillOps_eq]
    exact runOps_writes sel 0x00 _ (forall_mem_zeroFillAddrs.mpr reach)
  refine ⟨(written s b 0x00 (zeroFillAddrs s.cfg)).mem, ?wholeState, fun i hi w => ?cleared,
    fun loc w outside => ?kept⟩
  case wholeState =>
    rw [exec_idle_of_runOps run]
    simp only [written, zeroFillAddrs, List.map_map]
    rfl
  case cleared =>
    have inRange := forall_mem_zeroFillAddrs.mp (fun a (h : a ∈ zeroFillAddrs s.cfg) => h) i hi
    exact (byteAt_filled s _ _ _ w).trans (if_pos (List.mem_map_of_mem inRange))
  case kept =>
    have others : ∀ a ∈ zeroFillAddrs s.cfg, loc ≠ plainByteLoc s.cfg b a :=
      forall_mem_zeroFillAddrs.mpr outside
    have notWritten : loc ∉ (zeroFillAddrs s.cfg).map (plainByteLoc s.cfg b) := fun h => by
      obtain ⟨a, ha, same⟩ := List.mem_map.mp h
      exact others a ha same.symm
    exact (byteAt_filled s _ _ loc w).trans (if_neg notWritten)

end Sys2Proof.Proofs.ResetAndZeroFill
